-- ==== Sys2Proof/Word.lean ====
section
/-!
DEFINITION. The plain types of the link block: bytes, 16-bit values, byte strings, times (R7, R11).
-/

namespace Sys2Proof

/-- A byte, 0 to 255 (R7). -/
abbrev Byte := BitVec 8

/-- A 16-bit parameter image or telemetry field (R8, R58). -/
abbrev Half := BitVec 16

/-- A byte string; the first entry is the first byte on the wire (R7). -/
abbrev Bytes := List Byte

/-- Clock readings, durations, frequencies, intervals and the mean: exact rationals (R11, D14). -/
abbrev Time := Rat

/-- A positive time: the period of a tick, the timeout of a read (R6, D14, D19). -/
abbrev PosTime := { q : Time // 0 < q }

/-- Who makes a transport access: the block, inside SAMPLE, or the host itself (R39, R97, R137). -/
inductive Agent where
  | block
  | host
  deriving DecidableEq, Repr, Inhabited

/-- How the transport answers a write: it returns, or the channel fails (R39, R162). -/
inductive TxAnswer where
  | accepted
  | failed
  deriving DecidableEq, Repr, Inhabited

/-- How the transport answers a bounded-time read: with a byte string of any length, 0 included, or the
channel fails (R40, R162). -/
inductive RxAnswer where
  | bytes (b : Bytes)
  | failed
  deriving DecidableEq, Repr, Inhabited

/-- Which byte of the read-telemetry request carries the sub-code 0x07 (SUBCODE_POS, R63). -/
inductive SubcodePos where
  | byte3
  | byte4
  | byte5
  deriving DecidableEq, Repr, Inhabited

end Sys2Proof
end

