-- ==== Sys2Proof/Config.lean ====
section
/-!
DEFINITION. What is fixed for the life of a block (R6): the spec's named literals, and the free values: constants
without a body, about which nothing can be proved.
-/

namespace Sys2Proof.Config

/-! ### Named literals (R6, R62, R204) -/

/-- `CMD_LEN`: bytes of a command frame. -/
def cmdLen : Nat := 6

/-- `TLM_LEN`: bytes of a telemetry frame that are read. -/
def tlmLen : Nat := 7

/-- `HDR`: byte 0 of every command frame. -/
def hdr : Byte := 0xAA#8

/-- `PAD`: byte 3 of a command frame. -/
def pad : Byte := 0x00#8

/-- `TLM_MARK`: the expected byte 0 of a telemetry frame. -/
def tlmMark : Byte := 0xAB#8

/-- `POS_MAX`: the position inversion constant and the largest expected raw position. -/
def posMax : Nat := 0x3FFF

/-- `JOG_LIM`: the bound of the absolute-position command. -/
def jogLim : Int := 8191

/-- `RDTLM_SUB`: the sub-code of the read-telemetry request. -/
def subRdtlm : Byte := 0x07#8

def opRdtlm : Byte := 0x08#8
def opCzero : Byte := 0x0B#8
def opSave : Byte := 0xB0#8
def opSetspd : Byte := 0xC0#8
def opSetpos : Byte := 0xC2#8
def opRezero : Byte := 0xC7#8
def opSetnlim : Byte := 0xC8#8
def opSetplim : Byte := 0xC9#8
def opSetid : Byte := 0xF0#8
def opSetzero : Byte := 0xF1#8
def opPrepz : Byte := 0xF2#8

/-- `NW`: the width of N, IDX and ERRCNT (D16). -/
abbrev countWidth : Nat := 32

/-- `ACCW = 16 + NW`: the width of ACC (R19). -/
abbrev accWidth : Nat := 48

/-- `OPW`: the width of an integer operand port (D2). -/
abbrev portWidth : Nat := 32

/-- `N_MAX = 2^NW - 1`: the largest sample count SAMPLE accepts (D16). -/
def countMax : Int := 4294967295

/-- `TOL`: the host's convergence tolerance (R142). -/
def tol : Rat := 2

/-- The step table of R143: bound and step, the bounds descending; the first row whose bound is exceeded wins. -/
def stepRows : List (Rat × Int) := [(50, 20), (30, 15), (25, 10), (15, 5)]

/-- The step when no row of the table applies (R143). -/
def stepOtherwise : Int := 2

/-- The default of `TEST_SPEED`, an OPEN argument of the host: a positive magnitude (R6, R140, D36). -/
def testSpeedDefault : PNat := 25000

/-! ### Free values: no body, so no proof can see them (log entries 2, 3, 5, 7, 11, 12, 13) -/

/-- `T_RD` has no default (D19): numerator and denominator, each less one, of a positive rational nothing fixes. -/
opaque readTimeoutParts : Nat × Nat

/-- `T_RD` of the block that State.reset describes: positive, otherwise unknown (R6, R173). -/
def readTimeout : PosTime :=
  ⟨((readTimeoutParts.1 : Rat) + 1) / ((readTimeoutParts.2 : Rat) + 1), by positivity⟩

/-- What T0 and IVL hold after a reset (R185, U5). -/
opaque freeTime : Nat → Time

/-- The clock's reading when the model starts: the clock has no epoch (R172). -/
opaque clockAtStart : Time

/-- What the clock reads when no turn sets it and somebody waits for it: nothing bounds it from above, and nothing
says that it reaches the time waited for (R121, R172, log entry 12). -/
opaque freeReading : Nat → Time

/-- The answer to a write that nothing in State has fixed (R41, U7). -/
opaque freeTx : Nat → TxAnswer

/-- The answer to a read that nothing in State has fixed (R41, U7). -/
opaque freeRx : Nat → RxAnswer

/-- The position DECTLM returns for a raw position above 0x3FFF: any integer, the same for the same raw value
(R105, R108 L2 and L3, U2). -/
opaque positionOutOfRange : Half → Int

/-- `MEAN_ROUND`: the rounding a build that delivers a floating-point mean applies; nothing is assumed but that it
depends on the exact mean alone (R124, D20). -/
opaque meanRound : Rat → Rat

end Sys2Proof.Config
end

