-- ==== Sys2Proof/Machine/Operands.lean ====
section
/-!
DEFINITION. The integer and byte primitives of R8, the operand ranges of R60 and the frame layout of R76: everything
that says how an operand becomes bytes and bytes become a field.
-/

namespace Sys2Proof.Machine

/-- `u16(v) = v mod 2^16`: two's-complement wraparound into 16 bits (R8, R58). -/
def u16 (v : Int) : Half := BitVec.ofInt 16 v

/-- `sext16(u)`: the signed reading of 16 bits (R8). -/
def sext16 (u : Half) : Int := u.toInt

/-- `lo8(u)`: the less significant byte (R8). -/
def lo8 (u : Half) : Byte := u.extractLsb' 0 8

/-- `hi8(u)`: the more significant byte (R8). -/
def hi8 (u : Half) : Byte := u.extractLsb' 8 8

/-- `le16(x, y)`: the little-endian 16-bit value whose low byte is `x` (R8, R38). -/
def le16 (x y : Byte) : Half := y ++ x

/-- `clamp(v, a, b)` (R8). -/
def clamp (v a b : Int) : Int := if v < a then a else if b < v then b else v

/-- The signed 16-bit range S16 (R6). -/
def inS16 (v : Int) : Bool := decide (-32768 ≤ v) && decide (v ≤ 32767)

/-- The range REP16 that ENC accepts for a parameter (R6, D3). -/
def inRep16 (v : Int) : Bool := decide (-32768 ≤ v) && decide (v ≤ 65535)

/-- The 8-bit range 0 to 255 of addresses and opcodes (R6, R46). -/
def inByte (v : Int) : Bool := decide (0 ≤ v) && decide (v ≤ 255)

/-- The byte with an integer's value, for an integer that `inByte` admits. -/
def byteOf (v : Int) : Byte := BitVec.ofInt 8 v

/-- `MkFrame(a, op, pad, u)`: the six bytes of a command frame (R76, R54). -/
def mkFrame (a op pad : Byte) (u : Half) : Bytes := [Config.hdr, a, op, pad, lo8 u, hi8 u]

/-- The read-telemetry request for an address: the sub-code stands where SUBCODE_POS says (R82, R63). -/
def requestFrame (pos : SubcodePos) (a : Byte) : Bytes :=
  match pos with
  | .byte3 => mkFrame a Config.opRdtlm Config.subRdtlm 0
  | .byte4 => mkFrame a Config.opRdtlm Config.pad (le16 Config.subRdtlm 0)
  | .byte5 => mkFrame a Config.opRdtlm Config.pad (le16 0 Config.subRdtlm)

/-- The clamped operand of the absolute-position command (R92). -/
def jogTarget (x : Int) : Int := clamp x (-Config.jogLim) Config.jogLim

/-- `floor(d * f)`, exact (R111). -/
def sampleCount (d f : Time) : Int := (d * f).floor

/-- The scheduled end of slot `k`: `T0 + (k + 1) * IVL` (R121). -/
def slotEnd (t0 ivl : Time) (k : Nat) : Time := t0 + ((k : Rat) + 1) * ivl

/-- The reading at which a wait for `target` ends at the earliest: with a tick, the next multiple of its period (TICK,
R6, D14). -/
def deadline (tick : Option PosTime) (target : Time) : Time :=
  match tick with
  | none => target
  | some p => ((target / p.val).ceil : Rat) * p.val

end Sys2Proof.Machine
end

