-- ==== Sys2Proof/Syntax.lean ====
section
/-!
DEFINITION. The operations of the block, one constructor per row of spec/opcode_table.json in the table's order, and
the form in which a host asks for one (HOSTOP, R73).
-/

namespace Sys2Proof

/-- The eighteen operations. Integer operands are mathematical integers (D2); frequencies and durations are exact
rationals (R11). -/
inductive Instr where
  /-- R82: build the read-telemetry request. -/
  | rdtlm
  /-- R83: build the coarse-zero trigger. -/
  | czero
  /-- R84: build the set-zero-angle-offset command. -/
  | setzero (z : Int)
  /-- R85: build the set-speed command. -/
  | setspd (v : Int)
  /-- R86: build the stop command. -/
  | stop
  /-- R87: build the clear-fault command, an alias of stop. -/
  | clrflt
  /-- R88: build the save-configuration command. -/
  | save
  /-- R89: build the assign-new-device-address command. -/
  | setid (n : Int)
  /-- R90: build the set-negative-travel-limit command. -/
  | setnlim (m : Int)
  /-- R91: build the set-positive-travel-limit command. -/
  | setplim (m : Int)
  /-- R92: build the absolute-position command. -/
  | setpos (x : Int)
  /-- R93: build the soft re-zero command. -/
  | rezero
  /-- R94: build the reset/prepare command. -/
  | prepz
  /-- R107: decode a telemetry response. -/
  | dectlm (b : Bytes)
  /-- R75: load and validate the motor address. -/
  | ldaddr (a : Int)
  /-- R77: the raw encoder. -/
  | enc (op p : Int)
  /-- R80: parse a command frame. -/
  | dechdr (b : Bytes)
  /-- R125: sample the speed for a duration at a frequency. -/
  | sample (d f : Time)
  deriving DecidableEq, Repr

/-- What the host puts on the block's operation ports (format HOSTOP, R73): the 8-bit operation-select code and every
operand port. An operation reads the ports it has operands on and ignores the rest (log entry 14). -/
structure Request where
  /-- The operation-select code. -/
  code : Byte
  /-- The first integer operand port, OPW bits, two's complement (R6, D2). -/
  x : BitVec 32
  /-- The second integer operand port. -/
  y : BitVec 32
  /-- The byte-string port (DECHDR, DECTLM). -/
  b : Bytes
  /-- The duration port (SAMPLE). -/
  d : Time
  /-- The frequency port (SAMPLE). -/
  f : Time
  deriving DecidableEq, Repr

end Sys2Proof
end

