-- ==== Sys2Proof/WellFormed.lean ====
section
/-!
DEFINITION. Which operations a build with operand ports of OPW bits can be asked for (R6, D2). The meanings themselves
are total on all operands.
-/

namespace Sys2Proof

/-- The integer can be carried on a signed operand port of OPW = 32 bits (R6, D2). -/
def fitsPort (v : Int) : Bool := decide (-2147483648 ≤ v) && decide (v ≤ 2147483647)

/-- Every integer operand fits its port. Byte strings and rationals have no bound in the spec. -/
def WellFormed : Instr → Bool
  | .rdtlm => true
  | .czero => true
  | .setzero z => fitsPort z
  | .setspd v => fitsPort v
  | .stop => true
  | .clrflt => true
  | .save => true
  | .setid n => fitsPort n
  | .setnlim m => fitsPort m
  | .setplim m => fitsPort m
  | .setpos x => fitsPort x
  | .rezero => true
  | .prepz => true
  | .dectlm _ => true
  | .ldaddr a => fitsPort a
  | .enc op p => fitsPort op && fitsPort p
  | .dechdr _ => true
  | .sample _ _ => true

end Sys2Proof
end

