-- ==== Sys2Proof/Decode.lean ====
section
/-!
DEFINITION. Reading an operation: from the host's request ports (HOSTOP, R73), and from the rows of
spec/opcode_table.json (R74), whose words are command frames (CMD6), telemetry responses (TLM7) or HOSTOP codes; and
the encoder, which puts a well-formed operation on the ports.
-/

namespace Sys2Proof

open Sys2Proof.Machine

/-- Why bits name no operation. -/
inductive DecodeError where
  /-- A HOSTOP code outside R73's list; the block answers ValidationError (R158 (g)). -/
  | unknownCode (c : Byte)
  /-- A command frame is six bytes, a telemetry response seven or more. -/
  | wrongLength
  /-- No row of the opcode table has this header, opcode and pad (R66, R67). -/
  | noFrameRow
  /-- The first byte of a telemetry response is not the marker of the table's TLM7 row (R74). -/
  | noMarker
  deriving DecidableEq, Repr

/-- The HOSTOP code of each operation (R73). -/
def hostopCode : Instr → Byte
  | .ldaddr _ => 0x00#8
  | .enc _ _ => 0x01#8
  | .dechdr _ => 0x02#8
  | .dectlm _ => 0x03#8
  | .sample _ _ => 0x04#8
  | .rdtlm => 0x10#8
  | .czero => 0x11#8
  | .setzero _ => 0x12#8
  | .setspd _ => 0x13#8
  | .stop => 0x14#8
  | .clrflt => 0x15#8
  | .save => 0x16#8
  | .setid _ => 0x17#8
  | .setnlim _ => 0x18#8
  | .setplim _ => 0x19#8
  | .setpos _ => 0x1A#8
  | .rezero => 0x1B#8
  | .prepz => 0x1C#8

/-- The operation a request asks for: its code selects the operation, whose operands are read from the ports
(R73). Every other code is rejected by name. -/
def decode (r : Request) : Except DecodeError Instr :=
  match r.code.toNat with
  | 0x00 => .ok (.ldaddr r.x.toInt)
  | 0x01 => .ok (.enc r.x.toInt r.y.toInt)
  | 0x02 => .ok (.dechdr r.b)
  | 0x03 => .ok (.dectlm r.b)
  | 0x04 => .ok (.sample r.d r.f)
  | 0x10 => .ok .rdtlm
  | 0x11 => .ok .czero
  | 0x12 => .ok (.setzero r.x.toInt)
  | 0x13 => .ok (.setspd r.x.toInt)
  | 0x14 => .ok .stop
  | 0x15 => .ok .clrflt
  | 0x16 => .ok .save
  | 0x17 => .ok (.setid r.x.toInt)
  | 0x18 => .ok (.setnlim r.x.toInt)
  | 0x19 => .ok (.setplim r.x.toInt)
  | 0x1A => .ok (.setpos r.x.toInt)
  | 0x1B => .ok .rezero
  | 0x1C => .ok .prepz
  | _ => .error (.unknownCode r.code)

/-! ### Rows of the opcode table -/

/-- The mask of every non-pseudo CMD6 row: header, opcode and pad (R74). -/
def frameMask : BitVec 48 := 0xFF00FFFF0000#48

/-- The match word of a row: the header, the row's opcode and byte 3, zero elsewhere (R54, R74). -/
def frameMatch (op pad : Byte) : BitVec 48 := Config.hdr ++ 0#8 ++ op ++ pad ++ 0#16

/-- The non-pseudo CMD6 rows: match word, and the builder operation the frame belongs to, from the parameter image
(R74, R62, R60). STOP and CLRFLT are the frame of `SETSPD 0` (R65). -/
def frameRows : List (BitVec 48 × (Half → Instr)) :=
  [ (frameMatch Config.opRdtlm Config.subRdtlm, fun _ => .rdtlm),
    (frameMatch Config.opCzero Config.pad, fun _ => .czero),
    (frameMatch Config.opSetzero Config.pad, fun u => .setzero (sext16 u)),
    (frameMatch Config.opSetspd Config.pad, fun u => .setspd (sext16 u)),
    (frameMatch Config.opSave Config.pad, fun _ => .save),
    (frameMatch Config.opSetid Config.pad, fun u => .setid u.toNat),
    (frameMatch Config.opSetnlim Config.pad, fun u => .setnlim (sext16 u)),
    (frameMatch Config.opSetplim Config.pad, fun u => .setplim (sext16 u)),
    (frameMatch Config.opSetpos Config.pad, fun u => .setpos (sext16 u)),
    (frameMatch Config.opRezero Config.pad, fun _ => .rezero),
    (frameMatch Config.opPrepz Config.pad, fun _ => .prepz) ]

/-- The builder operation and the motor address of a command frame, by the table's rows (R74, R55): the first byte is
the most significant. -/
def decodeFrame (b : Bytes) : Except DecodeError (Byte × Instr) :=
  match b with
  | [h, a, o, p, l, g] =>
    match frameRows.find? (fun row => (h ++ a ++ o ++ p ++ l ++ g) &&& frameMask == row.1) with
    | some row => .ok (a, row.2 (le16 l g))
    | none => .error .noFrameRow
  | _ => .error .wrongLength

/-- The operation the table's TLM7 row stands for: DECTLM of a response of seven bytes or more whose first byte is the
marker (R74, R57). -/
def decodeResponse (b : Bytes) : Except DecodeError Instr :=
  if b.length < Config.tlmLen then .error .wrongLength
  else if b.head? == some Config.tlmMark then .ok (.dectlm b)
  else .error .noMarker

/-- `n` bytes of a number, the most significant first (R55, R57). -/
def bytesOf : Nat → Nat → Bytes
  | 0, _ => []
  | n + 1, w => BitVec.ofNat 8 (w / 256 ^ n) :: bytesOf n w

/-- The operation of a word of spec/opcode_table.json: 8 bits are a HOSTOP code with every port zero, 48 bits a command
frame, 56 bits a telemetry response (R74). -/
def decodeTableWord (nbits w : Nat) : Option Instr :=
  match nbits with
  | 8 => (decode ⟨BitVec.ofNat 8 w, 0, 0, [], 0, 0⟩).toOption
  | 48 => (decodeFrame (bytesOf 6 w)).toOption.map Prod.snd
  | 56 => (decodeResponse (bytesOf 7 w)).toOption
  | _ => none

/-! ### Encoding -/

/-- A request with an operation's code and every port zero. -/
def bareRequest (i : Instr) : Request := ⟨hostopCode i, 0, 0, [], 0, 0⟩

/-- A value on a signed operand port (R6). -/
def portOf (v : Int) : BitVec 32 := BitVec.ofInt 32 v

/-- An operation put on the request ports (R73); ports it has no operand on hold zero. -/
def encode (i : Instr) : Request :=
  match i with
  | .ldaddr a => { bareRequest i with x := portOf a }
  | .enc op p => { bareRequest i with x := portOf op, y := portOf p }
  | .dechdr b => { bareRequest i with b := b }
  | .dectlm b => { bareRequest i with b := b }
  | .sample d f => { bareRequest i with d := d, f := f }
  | .setzero z => { bareRequest i with x := portOf z }
  | .setspd v => { bareRequest i with x := portOf v }
  | .setid n => { bareRequest i with x := portOf n }
  | .setnlim m => { bareRequest i with x := portOf m }
  | .setplim m => { bareRequest i with x := portOf m }
  | .setpos x => { bareRequest i with x := portOf x }
  | .rdtlm => bareRequest i
  | .czero => bareRequest i
  | .stop => bareRequest i
  | .clrflt => bareRequest i
  | .save => bareRequest i
  | .rezero => bareRequest i
  | .prepz => bareRequest i

end Sys2Proof
end

