-- ==== Sys2Proof/Machine/State.lean ====
section
/-!
DEFINITION. The state: the ten registers of R13, the arguments of the block (R6), and the other agents of R2 as far as
the block meets them: the transport, the clock, the host with its calibration engine, and whose turn it is.
-/

namespace Sys2Proof.Machine

/-! ### Registers of the block -/

/-- The outcome codes of R157; `errNumber` of Flags.lean gives their numbers 0 to 7. -/
inductive ErrCode where
  | ok
  | validationError
  | truncated
  | badMarker
  | emptySample
  | transportError
  | busy
  | badFrame
  deriving DecidableEq, Repr

/-- The sampler states of SST (R24, R116). Its values 5 to 7 are never taken (U17) and have no constructor. -/
inductive SamplerState where
  /-- No run in progress. -/
  | idle
  /-- About to write the request of slot IDX. -/
  | req
  /-- Request written; in the bounded-time read. -/
  | resp
  /-- Response bytes in hand. -/
  | acc
  /-- Reading accumulated; waiting for the slot's scheduled end. -/
  | pace
  deriving DecidableEq, Repr

/-- The ten registers: the complete architectural state of the block (R13, R28). -/
structure Regs where
  /-- ADDR (R15). -/
  addr : BitVec 8
  /-- ADDR_V (R16). -/
  addrV : Bool
  /-- N (R17). -/
  n : BitVec 32
  /-- IDX (R18). -/
  idx : BitVec 32
  /-- ACC, signed (R19). -/
  acc : BitVec 48
  /-- ERRCNT (R20). -/
  errcnt : BitVec 32
  /-- T0 (R21). -/
  t0 : Time
  /-- IVL (R22). -/
  ivl : Time
  /-- SST (R24). -/
  sst : SamplerState
  /-- LASTERR (R25). -/
  lastErr : ErrCode
  deriving DecidableEq, Repr

/-- The registers after a reset (R183 to R187). T0 and IVL are unspecified there (R185): the `k`-th and the next free
time (log entry 3). -/
def Regs.reset (k : Nat) : Regs where
  addr := 0
  addrV := false
  n := 0
  idx := 0
  acc := 0
  errcnt := 0
  t0 := Config.freeTime k
  ivl := Config.freeTime (k + 1)
  sst := .idle
  lastErr := .ok

/-- The block's OPEN arguments (R6): fixed when it is instantiated, written by nothing (R14 (i), R188). -/
structure Params where
  /-- CHECK_MARKER (R101). -/
  checkMarker : Bool
  /-- SUBCODE_POS (R63). -/
  subcodePos : SubcodePos
  /-- T_RD (R173). -/
  readTimeout : PosTime
  /-- TICK: the period of a build whose clock counts ticks; none for a continuous clock (R6, R172, D14). -/
  tick : Option PosTime
  deriving DecidableEq, Repr

/-! ### What the block hands out -/

/-- What DECHDR returns (R80). -/
structure Header where
  addr : Byte
  opcode : Byte
  sub : Byte
  /-- The unsigned view of the parameter. -/
  paramU : Nat
  /-- The signed view of the parameter. -/
  paramS : Int
  deriving DecidableEq, Repr

/-- What DECTLM returns (R99, R107). -/
structure Telemetry where
  position : Int
  speed : Int
  current : Nat
  /-- The raw position was above 0x3FFF, and `position` is a free value (R105). -/
  posOor : Bool
  deriving DecidableEq, Repr

/-- What SAMPLE returns (R124). -/
structure SampleResult where
  sum : Int
  count : Nat
  mean : Rat
  errcnt : Nat
  deriving DecidableEq, Repr

/-- What a build that needs a machine number delivers for the mean (R124, D20). -/
def SampleResult.delivered (r : SampleResult) : Rat := Config.meanRound r.mean

/-- A register's value as the host reads it (R28). -/
inductive RegValue where
  | unsigned (v : Nat)
  | signed (v : Int)
  | time (t : Time)
  deriving DecidableEq, Repr

/-- An outcome handed to the host (R10, R14 (vi)). -/
inductive Reply where
  /-- `Ok(())` of LDADDR. -/
  | done
  /-- The six bytes of ENC or a builder. -/
  | frame (b : Bytes)
  /-- The six bytes of SETPOS and whether the operand was clamped (R92). -/
  | jogFrame (b : Bytes) (clamped : Bool)
  | header (h : Header)
  | telemetry (t : Telemetry)
  | sampled (r : SampleResult)
  /-- A register read directly (R28). -/
  | register (v : RegValue)
  /-- What the host's own read of the transport returned (R191). -/
  | drained (a : RxAnswer)
  /-- `Err(code)`. -/
  | err (e : ErrCode)
  deriving DecidableEq, Repr

/-- A transport access, with its answer (R39, R40). -/
inductive Access where
  | wrote (who : Agent) (b : Bytes) (a : TxAnswer)
  | read (who : Agent) (timeout : Time) (a : RxAnswer)
  deriving DecidableEq, Repr

/-! ### The host's calibration engine (R133 to R147) -/

/-- The host's OPEN arguments (R6, D36). -/
structure HostParams where
  /-- A positive magnitude (R140). -/
  testSpeed : PNat
  settle : Time
  winDur : Time
  winFreq : Time
  maxIter : Nat
  deriving DecidableEq, Repr

/-- Where a session stands in the step list of R147. A phase holds the means measured so far in the iteration; a
`settle` phase also the reading at which its delay ends, and an `await` phase how many replies the host had when it
asked for the SAMPLE. -/
inductive Phase where
  | start
  | stopA
  | settleA (ending : Time)
  | spinFwd
  | settleFwd (ending : Time)
  | measureFwd
  | awaitFwd (mark : Nat)
  | stopB (fwd : Rat)
  | settleB (ending : Time) (fwd : Rat)
  | spinRev (fwd : Rat)
  | settleRev (ending : Time) (fwd : Rat)
  | measureRev (fwd : Rat)
  | awaitRev (mark : Nat) (fwd : Rat)
  | stopC (fwd rev : Rat)
  | settleC (ending : Time) (fwd rev : Rat)
  | evaluate (fwd rev : Rat)
  | adjust (diff : Rat)
  deriving DecidableEq, Repr

/-- CalibrationSession (R134), with its parameters and phase. The offset is a signed 16-bit value; before the first
evaluation there is no last difference (log entry 32). -/
structure Session where
  params : HostParams
  iteration : Nat
  zeroOffset : Half
  lastDifference : Option Rat
  converged : Bool
  phase : Phase
  deriving DecidableEq, Repr

/-- How a session returns (R135). -/
inductive Ending where
  | converged
  | maxIterationsExceeded
  | transportFailure
  /-- An operation that the engine asked for returned another error (R148, R152, log entry 33). -/
  | operationFailure (e : ErrCode)
  deriving DecidableEq, Repr

/-! ### Turns -/

/-- Whose turn it is, and with what: the inputs of the machine (R2). -/
inductive Turn where
  /-- The host asks for an operation (R73). -/
  | ask (r : Request)
  /-- The block takes the next row of its transition table (R116). -/
  | block
  /-- The clock's reading becomes `t` (R172). -/
  | clock (t : Time)
  /-- The reset input (R183). -/
  | reset
  /-- The host writes bytes to the transport itself (R97, R137). -/
  | send (b : Bytes)
  /-- The host reads the transport itself (R191, R192). -/
  | drain
  /-- The host reads register `no` (R28). -/
  | readReg (no : Fin 8)
  /-- A calibration session is opened with an initial offset (R135). -/
  | openSession (p : HostParams) (z : Half)
  /-- The calibration engine takes its next act (R147). -/
  | engine
  deriving DecidableEq, Repr

/-! ### The whole state -/

/-- The block and the agents around it. -/
structure State where
  /-- The block's registers (R13). -/
  regs : Regs
  /-- The block's arguments (R6). -/
  cfg : Params
  /-- The response bytes in hand in S_ACC: R125's variable `r` (R24, R118). -/
  inHand : Bytes
  /-- The clock's reading (R172). -/
  now : Time
  /-- The turns to come, the next first (R2). -/
  agenda : List Turn
  /-- How the transport will answer the next writes; where the list ends, the answer is free (R41). -/
  txq : List TxAnswer
  /-- How the transport will answer the next reads; where the list ends, the answer is free (R41). -/
  rxq : List RxAnswer
  /-- The transport accesses made so far, the first first (R47, R179). -/
  trace : List Access
  /-- The outcomes handed to the host so far, the first first (R10). -/
  replies : List Reply
  /-- The calibration session in progress (R135). -/
  session : Option Session
  /-- How the last session returned, and its last record (R135, R146). -/
  ended : Option (Ending × Session)
  /-- How many free values have been drawn. -/
  draws : Nat
  deriving DecidableEq, Repr

/-- The arguments at their defaults, a continuous clock among them; T_RD has none and is a free positive time (R6,
D14). -/
def Params.default : Params where
  checkMarker := true
  subcodePos := .byte3
  readTimeout := Config.readTimeout
  tick := none

/-- The machine right after reset (R183 to R189), with nothing asked and nothing sent. -/
def State.reset : State where
  regs := Regs.reset 0
  cfg := Params.default
  inHand := []
  now := Config.clockAtStart
  agenda := []
  txq := []
  rxq := []
  trace := []
  replies := []
  session := none
  ended := none
  draws := 2

/-! ### Stops -/

/-- What stops the machine with a fault. -/
inductive Fault where
  /-- Raised by the calibration host agent when a session is opened while one is active: the spec assumes at most one
  (R135, R177) and gives no behaviour. Safe: the model stops where the software would go on. No operation of the block
  raises it. -/
  | secondSession
  deriving DecidableEq, Repr

/-- Where the model takes no step. -/
inductive Refusal where
  /-- Raised by Dispatch for an operation without a meaning yet. Safe. No operation is left in this case. -/
  | notModelled (mnemonic : String)
  /-- Raised by the calibration host agent when its next offset leaves -32768..32767: the spec has a model of the host
refuse there and assume neither that the engine clamps, wraps nor stops (R145, U15, N28). Safe. No operation of the
block raises it. -/
  | offsetOutOfRange (z : Int)
  deriving DecidableEq, Repr

/-- What a meaning and a step answer. -/
abbrev Answer := Host.Outcome State Fault Refusal

end Sys2Proof.Machine
end

