-- ==== Sys2Proof/Machine/Flags.lean ====
section
/-!
DEFINITION. The flag-like results (R26), the numbers of codes and states, the STATUS view (R27) and the register read
by number (R28).
-/

namespace Sys2Proof.Machine

/-- The number of an outcome code (R157). -/
def errNumber : ErrCode → BitVec 4
  | .ok => 0
  | .validationError => 1
  | .truncated => 2
  | .badMarker => 3
  | .emptySample => 4
  | .transportError => 5
  | .busy => 6
  | .badFrame => 7

/-- The number of a sampler state (R24). -/
def sstNumber : SamplerState → BitVec 3
  | .idle => 0
  | .req => 1
  | .resp => 2
  | .acc => 3
  | .pace => 4

/-- BUSY: a run is in progress (R27). -/
def busy (r : Regs) : Bool := r.sst != .idle

/-- STATUS: ADDR_V in bit 8, LASTERR in bits 7 to 4, BUSY in bit 3, SST in bits 2 to 0 (R27). -/
def statusWord (r : Regs) : BitVec 9 :=
  BitVec.ofBool r.addrV ++ errNumber r.lastErr ++ BitVec.ofBool (busy r) ++ sstNumber r.sst

/-- The register of a number of R28's table, as the host reads it. -/
def readRegister (r : Regs) (no : Fin 8) : RegValue :=
  match no with
  | 0 => .unsigned r.addr.toNat
  | 1 => .unsigned (statusWord r).toNat
  | 2 => .unsigned r.n.toNat
  | 3 => .unsigned r.idx.toNat
  | 4 => .signed r.acc.toInt
  | 5 => .unsigned r.errcnt.toNat
  | 6 => .time r.t0
  | 7 => .time r.ivl

/-- `clamped`: the operand of SETPOS was outside its range (R92). -/
def clamped (x : Int) : Bool := jogTarget x != x

/-- `pos_oor`: the raw position is above 0x3FFF (R105). -/
def posOor (raw : Half) : Bool := decide (Config.posMax < raw.toNat)

/-- The decoded position: inverted when in range (R102), otherwise a free value (R105, U2). -/
def positionOf (raw : Half) : Int :=
  if posOor raw then Config.positionOutOfRange raw else (Config.posMax : Int) - raw.toNat

end Sys2Proof.Machine
end

