-- ==== Sys2Proof/Machine/Ops.lean ====
section
/-!
DEFINITION. The shared operations: handing an outcome to the host, raising an error and returning from an operation
(R10, R166, R169), NeedAddr (R79), the two transport accesses (R39, R40), the clock (R121, R172) and the reset event
(R183).
-/

namespace Sys2Proof.Machine

/-! ### Outcomes -/

/-- Which registers an operation's end writes (R25, R31, R166): the pure operations none, LDADDR LASTERR, SAMPLE
LASTERR and SST. -/
inductive OpClass where
  | pure
  | load
  | sampler
  deriving DecidableEq, Repr

/-- Hand an outcome to the host (R10). -/
def deliver (v : Reply) (s : State) : State := { s with replies := s.replies ++ [v] }

/-- The registers when an operation ends with a code: LASTERR takes it, and SST returns to S_IDLE when the operation is
SAMPLE (R25, R166 (ii) and (iii)). A pure operation writes nothing. -/
def endRegs (k : OpClass) (e : ErrCode) (r : Regs) : Regs :=
  match k with
  | .pure => r
  | .load => { r with lastErr := e }
  | .sampler => { r with lastErr := e, sst := .idle }

/-- `raise E`: the operation ends with `Err(code)`; Busy writes nothing at all (R166, R163). -/
def raise (k : OpClass) (e : ErrCode) (s : State) : State :=
  deliver (.err e) (if e = .busy then s else { s with regs := endRegs k e s.regs })

/-- `return v`: the operation ends with `Ok(v)`, code 0 (R10, R25, R169). -/
def finish (k : OpClass) (v : Reply) (s : State) : State :=
  deliver v { s with regs := endRegs k .ok s.regs }

/-- End a pure operation with its result (R95, R107). -/
def answerPure (res : Except ErrCode Reply) (s : State) : State :=
  match res with
  | .ok v => finish .pure v s
  | .error e => raise .pure e s

/-- `NeedAddr()` before a computation that puts ADDR in a frame (R79). -/
def needAddr {α : Type} (r : Regs) (k : Except ErrCode α) : Except ErrCode α :=
  if r.addrV then k else .error .validationError

/-! ### Transport -/

/-- `TxWrite(b)`: the transport's next answer, or a free one where none is fixed (R39, R41). -/
def txWrite (who : Agent) (b : Bytes) (s : State) : TxAnswer × State :=
  match s.txq with
  | a :: q => (a, { s with txq := q, trace := s.trace ++ [.wrote who b a] })
  | [] =>
    let a := Config.freeTx s.draws
    (a, { s with draws := s.draws + 1, trace := s.trace ++ [.wrote who b a] })

/-- `RxRead(T_RD)`: the transport's next answer, consumed, or a free one where none is fixed (R40, R41, R44). -/
def rxRead (who : Agent) (s : State) : RxAnswer × State :=
  match s.rxq with
  | a :: q => (a, { s with rxq := q, trace := s.trace ++ [.read who s.cfg.readTimeout.val a] })
  | [] =>
    let a := Config.freeRx s.draws
    (a, { s with draws := s.draws + 1, trace := s.trace ++ [.read who s.cfg.readTimeout.val a] })

/-! ### Clock -/

/-- The comparison of `WaitUntil(target)`: whoever waits goes on when the clock has reached the target, and is held
otherwise (R121, R122, R174). -/
def reached (target : Time) (s : State) : Bool := decide (deadline s.cfg.tick target ≤ s.now)

/-- The clock moves of itself: to some reading, which may or may not be later, but is not earlier (R172, log
entry 12). -/
def clockMove (s : State) : State :=
  let reading := Config.freeReading s.draws
  { s with now := if s.now ≤ reading then reading else s.now, draws := s.draws + 1 }

/-! ### Reset -/

/-- The reset event: every register at its reset value, from any state, and nothing else but the response in hand and
the two free times (R183, R189). DESIGN CHOICE: the spec names no outcome for a SAMPLE that reset cuts short (R10,
R183), and the host is handed none (log entry 31). -/
def resetBlock (s : State) : State :=
  { s with regs := Regs.reset s.draws, inHand := [], draws := s.draws + 2 }

end Sys2Proof.Machine
end

