-- ==== Sys2Proof/Machine/Builders.lean ====
section
/-!
DEFINITION. The thirteen command builders (41_command_builders.md). Each checks that an address is loaded, then its own
operand, and returns the six bytes of its row of R62; none writes a register or touches the transport (R81, R95).
-/

namespace Sys2Proof.Machine

/-! ### Frames -/

/-- A builder without operand: parameter 0 (R59, R81). -/
def plainFrame (op : Byte) (r : Regs) : Except ErrCode Bytes :=
  needAddr r (.ok (mkFrame r.addr op Config.pad 0))

/-- A builder with a signed 16-bit operand (R60, R81). -/
def signedFrame (op : Byte) (v : Int) (r : Regs) : Except ErrCode Bytes :=
  needAddr r <|
    if inS16 v then .ok (mkFrame r.addr op Config.pad (u16 v)) else .error .validationError

/-- The read-telemetry request (R82). -/
def telemetryRequest (pos : SubcodePos) (r : Regs) : Except ErrCode Bytes :=
  needAddr r (.ok (requestFrame pos r.addr))

/-- The assign-address frame: the new address in the low byte, the high byte zero (R89). -/
def assignFrame (n : Int) (r : Regs) : Except ErrCode Bytes :=
  needAddr r <|
    if inByte n then .ok (mkFrame r.addr Config.opSetid Config.pad (u16 n)) else .error .validationError

/-- The absolute-position frame: the operand is clamped, never refused (R92). -/
def jogFrame (x : Int) (r : Regs) : Except ErrCode Bytes :=
  needAddr r (.ok (mkFrame r.addr Config.opSetpos Config.pad (u16 (jogTarget x))))

/-- The stop frame, which is also clear-fault's (R86, R87). -/
def stopFrame (r : Regs) : Except ErrCode Bytes := plainFrame Config.opSetspd r

/-! ### Meanings -/

/-- Return a builder's bytes to the host, or its error (R81 (iii)). -/
def answerFrame (f : Except ErrCode Bytes) (s : State) : Answer := .next (answerPure (f.map .frame) s)

/-- `RDTLM` (R82). -/
def execRdtlm (s : State) : Answer := answerFrame (telemetryRequest s.cfg.subcodePos s.regs) s

/-- `CZERO` (R83). -/
def execCzero (s : State) : Answer := answerFrame (plainFrame Config.opCzero s.regs) s

/-- `SETZERO z` (R84). -/
def execSetzero (z : Int) (s : State) : Answer := answerFrame (signedFrame Config.opSetzero z s.regs) s

/-- `SETSPD v` (R85). -/
def execSetspd (v : Int) (s : State) : Answer := answerFrame (signedFrame Config.opSetspd v s.regs) s

/-- `STOP` (R86). -/
def execStop (s : State) : Answer := answerFrame (stopFrame s.regs) s

/-- `CLRFLT`, an alias of stop: opcode 0xC1 is never emitted (R87, R64). -/
def execClrflt (s : State) : Answer := answerFrame (stopFrame s.regs) s

/-- `SAVE` (R88). -/
def execSave (s : State) : Answer := answerFrame (plainFrame Config.opSave s.regs) s

/-- `SETID n` (R89). -/
def execSetid (n : Int) (s : State) : Answer := answerFrame (assignFrame n s.regs) s

/-- `SETNLIM m` (R90). -/
def execSetnlim (m : Int) (s : State) : Answer := answerFrame (signedFrame Config.opSetnlim m s.regs) s

/-- `SETPLIM m` (R91). -/
def execSetplim (m : Int) (s : State) : Answer := answerFrame (signedFrame Config.opSetplim m s.regs) s

/-- `SETPOS x`: the frame and whether the operand was clamped (R92). -/
def execSetpos (x : Int) (s : State) : Answer :=
  .next (answerPure ((jogFrame x s.regs).map (fun b => .jogFrame b (clamped x))) s)

/-- `REZERO` (R93). -/
def execRezero (s : State) : Answer := answerFrame (plainFrame Config.opRezero s.regs) s

/-- `PREPZ` (R94). -/
def execPrepz (s : State) : Answer := answerFrame (plainFrame Config.opPrepz s.regs) s

end Sys2Proof.Machine
end

