-- ==== Sys2Proof/Machine/Codec.lean ====
section
/-!
DEFINITION. The codec: LDADDR, ENC, DECHDR and DECTLM (40_codec_encode.md, 42_codec_decode.md).
-/

namespace Sys2Proof.Machine

/-- LDADDR as a change of the state (R75): Busy first, then the range, else the address is loaded. -/
def loadAddress (a : Int) (s : State) : State :=
  if s.regs.sst ≠ .idle then raise .load .busy s
  else if inByte a then
    finish .load .done { s with regs := { s.regs with addr := byteOf a, addrV := true } }
  else raise .load .validationError s

/-- `LDADDR a` (R75). -/
def execLdaddr (a : Int) (s : State) : Answer := .next (loadAddress a s)

/-- The frame of `ENC op, p`: address, opcode and parameter are checked in this order (R77). -/
def encodeFrame (r : Regs) (op p : Int) : Except ErrCode Bytes :=
  needAddr r <|
    if inByte op then
      if inRep16 p then .ok (mkFrame r.addr (byteOf op) Config.pad (u16 p))
      else .error .validationError
    else .error .validationError

/-- `ENC op, p` (R77). -/
def execEnc (op p : Int) (s : State) : Answer :=
  .next (answerPure ((encodeFrame s.regs op p).map .frame) s)

/-- Byte 3 of a command frame is legal: the pad, or the sub-code of the read-telemetry request (R67, R80). -/
def padLegal (pos : SubcodePos) (op pad : Byte) : Bool :=
  pad == Config.pad || (pad == Config.subRdtlm && op == Config.opRdtlm && pos == .byte3)

/-- The command frame parser (R80): length, header, pad, then the fields in both views. -/
def parseHeader (pos : SubcodePos) (b : Bytes) : Except ErrCode Header :=
  match b with
  | [h, a, op, pad, lo, hi] =>
    if h ≠ Config.hdr then .error .badFrame
    else if padLegal pos op pad then
      .ok { addr := a, opcode := op, sub := pad, paramU := (le16 lo hi).toNat, paramS := sext16 (le16 lo hi) }
    else .error .badFrame
  | _ => .error .badFrame

/-- `DECHDR b` (R80). -/
def execDechdr (b : Bytes) (s : State) : Answer :=
  .next (answerPure ((parseHeader s.cfg.subcodePos b).map .header) s)

/-- The telemetry parser (R107): fewer than seven bytes is Truncated, then the marker when CHECK_MARKER is set; bytes
from index 7 on are ignored (R106). -/
def parseTelemetry (checkMarker : Bool) (b : Bytes) : Except ErrCode Telemetry :=
  match b with
  | m :: p0 :: p1 :: s0 :: s1 :: c0 :: c1 :: _ =>
    if checkMarker && m != Config.tlmMark then .error .badMarker
    else
      .ok
        { position := positionOf (le16 p0 p1)
          speed := sext16 (le16 s0 s1)
          current := (le16 c0 c1).toNat
          posOor := posOor (le16 p0 p1) }
  | _ => .error .truncated

/-- `DECTLM b` (R107). -/
def execDectlm (b : Bytes) (s : State) : Answer :=
  .next (answerPure ((parseTelemetry s.cfg.checkMarker b).map .telemetry) s)

end Sys2Proof.Machine
end

