-- ==== Sys2Proof/Machine/Sampler.lean ====
section
/-!
DEFINITION. The telemetry sampler (43_sampler.md): SAMPLE's entry checks and initialisation, and the four rows of the
transition table R116 that carry a run.
-/

namespace Sys2Proof.Machine

/-! ### Starting a run -/

/-- The entry checks in the order of R110: Busy, address, count, then frequency and the largest count; the count on
success (R111 to R113). -/
def entryCheck (r : Regs) (d f : Time) : Except ErrCode Nat :=
  if r.sst ≠ .idle then .error .busy
  else
    needAddr r <|
      if sampleCount d f < 1 then .error .emptySample
      else if f < 0 ∨ Config.countMax < sampleCount d f then .error .validationError
      else .ok (sampleCount d f).toNat

/-- Initialisation (R115): the count, the interval, cleared counters, the clock read once. -/
def startRun (n : Nat) (f : Time) (s : State) : State :=
  { s with
    regs :=
      { s.regs with
        n := BitVec.ofNat 32 n
        ivl := 1 / f
        acc := 0
        errcnt := 0
        idx := 0
        t0 := s.now
        sst := .req } }

/-- SAMPLE's first row as a change of the state (R116, S_IDLE): the checks, then the initialisation or the error. -/
def startSample (d f : Time) (s : State) : State :=
  match entryCheck s.regs d f with
  | .ok n => startRun n f s
  | .error e => raise .sampler e s

/-- `SAMPLE d, f` (R125): the run is started here and carried by the block's own steps. -/
def execSample (d f : Time) (s : State) : Answer := .next (startSample d f s)

/-! ### The rows of the transition table -/

/-- S_REQ: one write of the request (R117); TransportError ends the run (R126). -/
def writeRequest (s : State) : State :=
  match txWrite .block (requestFrame s.cfg.subcodePos s.regs.addr) s with
  | (.accepted, s') => { s' with regs := { s'.regs with sst := .resp } }
  | (.failed, s') => raise .sampler .transportError s'

/-- S_RESP: one bounded-time read (R118); TransportError ends the run (R126). -/
def readResponse (s : State) : State :=
  match rxRead .block s with
  | (.bytes b, s') => { s' with inHand := b, regs := { s'.regs with sst := .acc } }
  | (.failed, s') => raise .sampler .transportError s'

/-- The speed a response counts for: a decode error is a sample of speed 0 (R119, R120). -/
def speedOf (checkMarker : Bool) (b : Bytes) : Int :=
  match parseTelemetry checkMarker b with
  | .ok t => t.speed
  | .error _ => 0

/-- The response is a substituted sample (R120). -/
def substituted (checkMarker : Bool) (b : Bytes) : Bool :=
  match parseTelemetry checkMarker b with
  | .ok _ => false
  | .error _ => true

/-- S_ACC: decode the response in hand and accumulate (R119). -/
def accumulate (s : State) : State :=
  { s with
    regs :=
      { s.regs with
        acc := s.regs.acc + BitVec.ofInt 48 (speedOf s.cfg.checkMarker s.inHand)
        errcnt := if substituted s.cfg.checkMarker s.inHand then s.regs.errcnt + 1 else s.regs.errcnt
        sst := .pace } }

/-- The result of a run (R124): the mean is exact. -/
def runResult (r : Regs) : SampleResult where
  sum := r.acc.toInt
  count := r.n.toNat
  mean := (r.acc.toInt : Rat) / (r.n.toNat : Rat)
  errcnt := r.errcnt.toNat

/-- After the hold: the next slot, or the end of the run (R123). -/
def advanceSlot (s : State) : State :=
  let r : Regs := { s.regs with idx := s.regs.idx + 1 }
  if r.idx < r.n then { s with regs := { r with sst := .req } }
  else finish .sampler (.sampled (runResult r)) { s with regs := r }

/-- The clock has reached the scheduled end of the slot (R121). -/
def slotOver (s : State) : Bool := reached (slotEnd s.regs.t0 s.regs.ivl s.regs.idx.toNat) s

/-- S_PACE: held until the clock has reached the slot's scheduled end, then the slot advances (R121 to R123). What
lifts the hold is the clock, not the block. -/
def paceSlot (s : State) : State := if slotOver s then advanceSlot s else s

/-- One step of the block by itself (R116). In S_IDLE there is nothing to do until the host asks (R188). -/
def blockMove (s : State) : State :=
  match s.regs.sst with
  | .idle => s
  | .req => writeRequest s
  | .resp => readResponse s
  | .acc => accumulate s
  | .pace => paceSlot s

end Sys2Proof.Machine
end

