-- ==== Sys2Proof/Machine/Dispatch.lean ====
section
/-!
DEFINITION. One arm per operation of spec/opcode_table.json, each a direct call of its meaning.
-/

namespace Sys2Proof.Machine

/-- Run one operation. -/
def exec (i : Instr) (s : State) : Host.Outcome State Fault Refusal :=
  match i with
  | .rdtlm => Sys2Proof.Machine.execRdtlm s
  | .czero => Sys2Proof.Machine.execCzero s
  | .setzero z => Sys2Proof.Machine.execSetzero z s
  | .setspd v => Sys2Proof.Machine.execSetspd v s
  | .stop => Sys2Proof.Machine.execStop s
  | .clrflt => Sys2Proof.Machine.execClrflt s
  | .save => Sys2Proof.Machine.execSave s
  | .setid n => Sys2Proof.Machine.execSetid n s
  | .setnlim m => Sys2Proof.Machine.execSetnlim m s
  | .setplim m => Sys2Proof.Machine.execSetplim m s
  | .setpos x => Sys2Proof.Machine.execSetpos x s
  | .rezero => Sys2Proof.Machine.execRezero s
  | .prepz => Sys2Proof.Machine.execPrepz s
  | .dectlm b => Sys2Proof.Machine.execDectlm b s
  | .ldaddr a => Sys2Proof.Machine.execLdaddr a s
  | .enc op p => Sys2Proof.Machine.execEnc op p s
  | .dechdr b => Sys2Proof.Machine.execDechdr b s
  | .sample d f => Sys2Proof.Machine.execSample d f s

end Sys2Proof.Machine
end

