-- ==== Sys2Proof/Machine/Engine.lean ====
section
/-!
DEFINITION. The calibration engine, the host the spec describes (44_host_calibration_engine.md): an agent outside the
block that asks the block's operations, sends the frames itself and waits. One act of the step list R147 is one turn.
-/

namespace Sys2Proof.Machine

/-! ### The engine's states and tables -/

/-- The engine states of R136; the terminal ones are `Ending`. -/
inductive EngineState where
  | idle
  | forwardTest
  | reverseTest
  | evaluate
  | adjustOffset
  deriving DecidableEq, Repr

/-- Which engine state a phase belongs to, by the assignment of steps to states that R136 marks as the spec's reading
(log entry 9). -/
def engineState : Phase → EngineState
  | .start => .idle
  | .stopA => .forwardTest
  | .settleA _ => .forwardTest
  | .spinFwd => .forwardTest
  | .settleFwd _ => .forwardTest
  | .measureFwd => .forwardTest
  | .awaitFwd _ => .forwardTest
  | .stopB _ => .reverseTest
  | .settleB _ _ => .reverseTest
  | .spinRev _ => .reverseTest
  | .settleRev _ _ => .reverseTest
  | .measureRev _ => .reverseTest
  | .awaitRev _ _ => .reverseTest
  | .stopC _ _ => .reverseTest
  | .settleC _ _ _ => .reverseTest
  | .evaluate _ _ => .evaluate
  | .adjust _ => .adjustOffset

/-- The absolute value of a rational. -/
def magnitude (q : Rat) : Rat := if q < 0 then -q else q

/-- `|forward_speed| - |reverse_speed|` (R141). -/
def speedDifference (fwd rev : Rat) : Rat := magnitude fwd - magnitude rev

/-- The step-size table, first match in descending order, all comparisons strict (R143). -/
def stepSize (a : Rat) : Int :=
  match Config.stepRows.find? (fun row => row.1 < a) with
  | some row => row.2
  | none => Config.stepOtherwise

/-- The next offset: decreased when forward is faster, otherwise increased (R144). -/
def nextOffset (z : Int) (diff : Rat) : Int :=
  if 0 < diff then z - stepSize (magnitude diff) else z + stepSize (magnitude diff)

/-! ### Acts -/

/-- The session goes on in a phase. -/
def continueWith (c : Session) (p : Phase) (s : State) : State := { s with session := some { c with phase := p } }

/-- The session returns (R135). -/
def endSession (e : Ending) (c : Session) (s : State) : State := { s with session := none, ended := some (e, c) }

/-- A session that fails returns after one best-effort stop, whose own failure is ignored (R148, R149, R152). DEDUCED:
without an address no stop can be built, and none is sent (log entry 33). DESIGN CHOICE: the record it returns is the
session's as it stands (log entry 28). -/
def abandon (e : Ending) (c : Session) (s : State) : State :=
  match stopFrame s.regs with
  | .ok b => endSession e c (txWrite .host b s).2
  | .error _ => endSession e c s

/-- `send(frame)`: a builder's bytes to the transport's write, then go on (R137). A write that fails ends
the session (R149); DEDUCED: so does a builder that refuses (R148, R152, log entry 33). -/
def hostSend (f : Except ErrCode Bytes) (c : Session) (andThen : State → State) (s : State) : Answer :=
  match f with
  | .error e => .next (abandon (.operationFailure e) c s)
  | .ok b =>
    match txWrite .host b s with
    | (.accepted, s') => .next (andThen s')
    | (.failed, s') => .next (abandon .transportFailure c s')

/-- `delay(SETTLE)` begins: it ends at the reading SETTLE from now (R138). -/
def settle (c : Session) (p : Time → Phase) (s : State) : State := continueWith c (p (s.now + c.params.settle)) s

/-- In a delay: held until the clock has reached its end (R138). -/
def settled (ending : Time) (c : Session) (p : Phase) (s : State) : State :=
  if reached ending s then continueWith c p s else s

/-- Ask for the sampling window and wait for its outcome in phase `p`, which is given how many replies came before
(R140). DEDUCED: an error of SAMPLE's entry ends the session (R148, R152, log entry 33). -/
def askWindow (c : Session) (p : Nat → Phase) (s : State) : State :=
  match entryCheck s.regs c.params.winDur c.params.winFreq with
  | .ok n => continueWith c (p s.replies.length) (startRun n c.params.winFreq s)
  | .error e => abandon (.operationFailure e) c (raise .sampler e s)

/-- How a run ends: with its mean, or with TransportError (R123, R126). -/
inductive WindowEnd where
  | mean (q : Rat)
  | lost
  deriving DecidableEq, Repr

/-- The outcome of the run among the replies that came since it was asked for: the first result or TransportError.
Only a run hands over either, so whatever other requests were answered meanwhile is passed over (R48, R128). DESIGN
CHOICE: with one caller at a time (R150) the run is the engine's own; if it was cut short by reset and the host then
asked for another, the engine takes the outcome of that one (log entry 34). -/
def windowOutcome : List Reply → Option WindowEnd
  | [] => none
  | .sampled r :: _ => some (.mean r.mean)
  | .err .transportError :: _ => some .lost
  | _ :: rs => windowOutcome rs

/-- Wait for the outcome of a SAMPLE: its mean leads on, a TransportError ends the session (R140, R149). DESIGN CHOICE:
the spec does not say what the engine does when reset cuts its SAMPLE short (R148, R183), and the engine goes on
waiting (log entry 31). -/
def awaitWindow (mark : Nat) (c : Session) (p : Rat → Phase) (s : State) : State :=
  match windowOutcome (s.replies.drop mark) with
  | none => s
  | some (.mean q) => continueWith c (p q) s
  | some .lost => abandon .transportFailure c s

/-- Steps 6 and 7: the difference is recorded and tested, the bound included (R141, R142). -/
def evaluateTest (c : Session) (fwd rev : Rat) (s : State) : State :=
  let diff := speedDifference fwd rev
  let c' : Session := { c with lastDifference := some diff }
  if magnitude diff ≤ Config.tol then endSession .converged { c' with converged := true } s
  else continueWith c' (.adjust diff) s

/-- Steps 10 and 11, after the new offset is sent: the next iteration, or the end of the budget (R145, R146). -/
def closeIteration (c : Session) (s : State) : State :=
  if c.iteration < c.params.maxIter then continueWith { c with iteration := c.iteration + 1 } .start s
  else endSession .maxIterationsExceeded c s

/-- Steps 8 to 10: the new offset is sent and the iteration closed (R143 to R145). An offset that leaves S16 has no
stated consequence (U15, N28). -/
def adjustOffset (c : Session) (diff : Rat) (s : State) : Answer :=
  let z := nextOffset c.zeroOffset.toInt diff
  if inS16 z then
    let c' : Session := { c with zeroOffset := u16 z }
    hostSend (signedFrame Config.opSetzero z s.regs) c' (closeIteration c') s
  else .refused (.offsetOutOfRange z)

/-- One act of the engine: the step list of R147. -/
def engineMove (c : Session) (s : State) : Answer :=
  match c.phase with
  | .start => .next (continueWith c .stopA s)
  | .stopA => hostSend (stopFrame s.regs) c (settle c .settleA) s
  | .settleA t => .next (settled t c .spinFwd s)
  | .spinFwd => hostSend (signedFrame Config.opSetspd c.params.testSpeed s.regs) c (settle c .settleFwd) s
  | .settleFwd t => .next (settled t c .measureFwd s)
  | .measureFwd => .next (askWindow c .awaitFwd s)
  | .awaitFwd mark => .next (awaitWindow mark c .stopB s)
  | .stopB fwd => hostSend (stopFrame s.regs) c (settle c (fun t => .settleB t fwd)) s
  | .settleB t fwd => .next (settled t c (.spinRev fwd) s)
  | .spinRev fwd =>
    hostSend (signedFrame Config.opSetspd (-c.params.testSpeed) s.regs) c (settle c (fun t => .settleRev t fwd)) s
  | .settleRev t fwd => .next (settled t c (.measureRev fwd) s)
  | .measureRev fwd => .next (askWindow c (fun mark => .awaitRev mark fwd) s)
  | .awaitRev mark fwd => .next (awaitWindow mark c (.stopC fwd) s)
  | .stopC fwd rev => hostSend (stopFrame s.regs) c (settle c (fun t => .settleC t fwd rev)) s
  | .settleC t fwd rev => .next (settled t c (.evaluate fwd rev) s)
  | .evaluate fwd rev => .next (evaluateTest c fwd rev s)
  | .adjust diff => adjustOffset c diff s

/-- The reading a phase is held for, if it is a delay (R138). -/
def settlesAt : Phase → Option Time
  | .start => none
  | .stopA => none
  | .settleA t => some t
  | .spinFwd => none
  | .settleFwd t => some t
  | .measureFwd => none
  | .awaitFwd _ => none
  | .stopB _ => none
  | .settleB t _ => some t
  | .spinRev _ => none
  | .settleRev t _ => some t
  | .measureRev _ => none
  | .awaitRev _ _ => none
  | .stopC _ _ => none
  | .settleC t _ _ => some t
  | .evaluate _ _ => none
  | .adjust _ => none

/-- The session is held in a delay. -/
def engineHeld (s : State) : Bool :=
  match s.session.bind (fun c => settlesAt c.phase) with
  | none => false
  | some t => !reached t s

/-- The engine's turn: nothing without a session. -/
def engineTurn (s : State) : Answer :=
  match s.session with
  | none => .next s
  | some c => engineMove c s

/-- A new session's record, at the start of its first iteration (R135, R136). DESIGN CHOICE: the spec gives
last_difference no value before the first evaluation, and it holds none (R134, log entry 32). -/
def newSession (p : HostParams) (z : Half) : Session where
  params := p
  iteration := 1
  zeroOffset := z
  lastDifference := none
  converged := false
  phase := .start

/-- A session is opened; with an iteration budget of 0 it returns at once (R147). A second one is outside the spec
(R135). -/
def openSession (p : HostParams) (z : Half) (s : State) : Answer :=
  match s.session with
  | some _ => .fault .secondSession
  | none =>
    if p.maxIter = 0 then .next (endSession .maxIterationsExceeded { newSession p z with iteration := 0 } s)
    else .next { s with session := some (newSession p z) }

end Sys2Proof.Machine
end

