-- ==== Sys2Proof/Machine/Agents.lean ====
section
/-!
DEFINITION. What each turn does: the host's request, the block's own step, the clock, the reset input, the host's own
use of the transport and of the registers, and the calibration engine (R2).
-/

namespace Sys2Proof.Machine

/-- The host asks for an operation: the block reads its ports and runs it. A code that names no operation is answered
with ValidationError and changes nothing (R73, R158 (g)). -/
def runRequest (r : Request) (s : State) : Answer :=
  match decode r with
  | .ok i => exec i s
  | .error _ => .next (raise .pure .validationError s)

/-- The host reads the transport itself; what it gets is lost to the block (R191, R192). -/
def hostDrain (s : State) : State :=
  match rxRead .host s with
  | (a, s') => deliver (.drained a) s'

/-- One turn. -/
def takeTurn (t : Turn) (s : State) : Answer :=
  match t with
  | .ask r => runRequest r s
  | .block => .next (blockMove s)
  | .clock reading => .next { s with now := reading }
  | .reset => .next (resetBlock s)
  | .send b => .next (txWrite .host b s).2
  | .drain => .next (hostDrain s)
  | .readReg no => .next (deliver (.register (readRegister s.regs no)) s)
  | .openSession p z => openSession p z s
  | .engine => engineTurn s

/-- The agent that would move next waits for the clock: the block in S_PACE, or the engine in a delay (R121, R138). -/
def held (s : State) : Bool :=
  match s.regs.sst with
  | .idle => engineHeld s
  | .req => false
  | .resp => false
  | .acc => false
  | .pace => !slotOver s

/-- With no turn on the agenda the clock moves if it is waited for; otherwise the block carries its run on; with no run
in progress an open session acts; with none of these the block waits for the host (R188, log entry 6). -/
def restTurn (s : State) : Answer :=
  if held s then .next (clockMove s)
  else if s.regs.sst ≠ .idle then .next (blockMove s)
  else engineTurn s

/-- The request that asks for the operation of a word of spec/opcode_table.json. A HOSTOP code goes on the port as it
stands, whether it names an operation or not. -/
def tableRequest (nbits w : Nat) : Option Request :=
  if nbits = 8 then some ⟨BitVec.ofNat 8 w, 0, 0, [], 0, 0⟩ else (decodeTableWord nbits w).map encode

end Sys2Proof.Machine
end

