-- ==== Sys2Proof/Machine/Step.lean ====
section
/-!
DEFINITION. One step of the machine: the next turn of the agenda, or what happens when it is empty.
-/

namespace Sys2Proof.Machine

/-- One step: whose turn it is moves (R2). -/
def step (s : State) : Host.Outcome State Fault Refusal :=
  match s.agenda with
  | [] => restTurn s
  | t :: rest => takeTurn t { s with agenda := rest }

/-- The state in which the host asks next for the operation of a table word (log entry 6). -/
def State.withFetchWord (s : State) (nbits w : Nat) : State :=
  match tableRequest nbits w with
  | some r => { s with agenda := .ask r :: s.agenda }
  | none => s

end Sys2Proof.Machine
end

