-- ==== Sys2Proof/Safety.lean ====
section
/-!
DEFINITION. The terms claims are stated in: the register invariant (R16, R18 to R20, R22, R25), the pacing invariant
(R130), the premise on the clock (R172), and what a run adds up (R129).
-/

namespace Sys2Proof.Machine

/-! ### Registers -/

/-- How many readings ACC holds: the completed slots, and in S_PACE also the slot whose reading was just added (R20). -/
def readingsIn (r : Regs) : Nat := if r.sst = .pace then r.idx.toNat + 1 else r.idx.toNat

/-- The codes LASTERR may hold: 0, 1, 4 and 5 (R25, R165, U17). -/
def storable (e : ErrCode) : Bool :=
  match e with
  | .ok => true
  | .validationError => true
  | .emptySample => true
  | .transportError => true
  | .truncated => false
  | .badMarker => false
  | .busy => false
  | .badFrame => false

/-- What the registers always satisfy. -/
structure Regs.Sound (r : Regs) : Prop where
  /-- `0 <= IDX <= N` (R18, R28). -/
  idx_le : r.idx.toNat ≤ r.n.toNat
  /-- During a run a slot is left, an address is loaded and the interval is positive (R18, R22, R79). -/
  running : r.sst ≠ .idle → r.idx.toNat < r.n.toNat ∧ r.addrV = true ∧ 0 < r.ivl
  /-- ERRCNT counts readings in ACC (R20). -/
  errcnt_le : r.errcnt.toNat ≤ readingsIn r
  /-- ACC is a sum of that many signed 16-bit values: it has not overflowed (R19, R28). -/
  acc_lower : -32768 * (readingsIn r : Int) ≤ r.acc.toInt
  acc_upper : r.acc.toInt ≤ 32767 * (readingsIn r : Int)
  /-- LASTERR holds one of the codes that are ever stored (R165). -/
  lastErr_storable : storable r.lastErr = true
  /-- Without a validated address ADDR is still 0 (R16, R184). -/
  addr_zero : r.addrV = false → r.addr = 0

/-! ### Time -/

/-- The pacing invariant: in slot `IDX` of a run the clock has reached `T0 + IDX * IVL` (R130). -/
def OnSchedule (s : State) : Prop :=
  s.regs.sst ≠ .idle → s.regs.t0 + (s.regs.idx.toNat : Rat) * s.regs.ivl ≤ s.now

/-- The premise on the clock for one step: a clock turn does not set the reading back (R172 (i), R197). -/
def ClockForward (s : State) : Prop :=
  ∀ reading rest, s.agenda = .clock reading :: rest → s.now ≤ reading

/-- The premise that the clock progresses, for a run started at `t0` (R172 (ii), R197, U16): the `k`-th reading is at or
after the deadline of slot `k`. -/
def ClockReaches (tick : Option PosTime) (t0 ivl : Time) (readings : List Time) : Prop :=
  ∀ k r, readings[k]? = some r → deadline tick (slotEnd t0 ivl k) ≤ r

/-- The turns of a run in which the clock is set once in each slot, when the block is held in S_PACE. -/
def pacedTurns (readings : List Time) : List Turn :=
  readings.flatMap fun r => [.block, .block, .block, .clock r, .block]

/-! ### Runs -/

/-- The sum of the speeds the responses count for, a substituted sample as 0 (R129). -/
def speedSum (checkMarker : Bool) (bs : List Bytes) : Int := (bs.map (speedOf checkMarker)).sum

/-- How many responses fail to decode (R129). -/
def lostCount (checkMarker : Bool) (bs : List Bytes) : Nat := bs.countP (substituted checkMarker)

/-- The transport accesses of slots answered with `bs`: a write of the request, then a read, for each (R47). -/
def slotAccesses (timeout : Time) (request : Bytes) (bs : List Bytes) : List Access :=
  bs.flatMap fun b => [.wrote .block request .accepted, .read .block timeout (.bytes b)]

/-! ### Safe steps -/

/-- A step of the block's, the host's or the clock's that does not act for the calibration engine. -/
def engineFree (s : State) : Prop :=
  s.session = none ∧ ∀ p z rest, s.agenda ≠ .openSession p z :: rest

/-- The pure operations: every one but LDADDR and SAMPLE (R13, R31). -/
def isPure (i : Instr) : Bool :=
  match i with
  | .ldaddr _ => false
  | .sample _ _ => false
  | .rdtlm => true
  | .czero => true
  | .setzero _ => true
  | .setspd _ => true
  | .stop => true
  | .clrflt => true
  | .save => true
  | .setid _ => true
  | .setnlim _ => true
  | .setplim _ => true
  | .setpos _ => true
  | .rezero => true
  | .prepz => true
  | .dectlm _ => true
  | .enc _ _ => true
  | .dechdr _ => true

/-- The thirteen builders (R96). -/
def isBuilder (i : Instr) : Bool :=
  match i with
  | .rdtlm => true
  | .czero => true
  | .setzero _ => true
  | .setspd _ => true
  | .stop => true
  | .clrflt => true
  | .save => true
  | .setid _ => true
  | .setnlim _ => true
  | .setplim _ => true
  | .setpos _ => true
  | .rezero => true
  | .prepz => true
  | .dectlm _ => false
  | .ldaddr _ => false
  | .enc _ _ => false
  | .dechdr _ => false
  | .sample _ _ => false

/-- What a builder's frame says of the operation: STOP and CLRFLT are `SETSPD 0`, and SETPOS's operand is the clamped
one (R65, R92). -/
def frameMeaning (i : Instr) : Instr :=
  match i with
  | .stop => .setspd 0
  | .clrflt => .setspd 0
  | .setpos x => .setpos (jogTarget x)
  | .rdtlm => .rdtlm
  | .czero => .czero
  | .setzero z => .setzero z
  | .setspd v => .setspd v
  | .save => .save
  | .setid n => .setid n
  | .setnlim m => .setnlim m
  | .setplim m => .setplim m
  | .rezero => .rezero
  | .prepz => .prepz
  | .dectlm b => .dectlm b
  | .ldaddr a => .ldaddr a
  | .enc op p => .enc op p
  | .dechdr b => .dechdr b
  | .sample d f => .sample d f

/-- The six bytes a reply carries, if it carries a frame. -/
def replyFrame (v : Reply) : Option Bytes :=
  match v with
  | .frame b => some b
  | .jogFrame b _ => some b
  | .done => none
  | .header _ => none
  | .telemetry _ => none
  | .sampled _ => none
  | .register _ => none
  | .drained _ => none
  | .err _ => none

end Sys2Proof.Machine
end

