-- ==== Sys2Proof/Certificates/Slice0/Obligations.lean ====
section
/-!
DEFINITION. The statements about the model, each from a rule of spec/. Where a statement gives a next state as
`{ s with … }`, every field that is not named is unchanged: that is its frame. The block has no addressable memory
(R33), so a frame has no clause about bytes of memory.
-/

open Sys2Proof Sys2Proof.Machine

/-! ### Primitives and encodings -/

/-- R8: the integer primitives and their laws. -/
def Obligations.IntegerPrimitivesAreThoseOfTheNotation : Prop :=
  (∀ v : Int, ((u16 v).toNat : Int) = v % 65536) ∧
    (∀ u : Half, sext16 u = if u.toNat < 32768 then (u.toNat : Int) else (u.toNat : Int) - 65536) ∧
    (∀ u : Half, (lo8 u).toNat = u.toNat % 256 ∧ (hi8 u).toNat = u.toNat / 256) ∧
    (∀ x y : Byte, (le16 x y).toNat = x.toNat + 256 * y.toNat) ∧
    (∀ v a b : Int, clamp v a b = if v < a then a else if v > b then b else v) ∧
    (∀ u : Half, le16 (lo8 u) (hi8 u) = u) ∧
    (∀ v : Int, -32768 ≤ v → v ≤ 32767 → sext16 (u16 v) = v) ∧
    (∀ u : Half, u16 (sext16 u) = u)

/-- R73, R58, D2: an operation that fits the ports is read back from the request that encodes it, whole. -/
def Obligations.DecodeOfEncodeIsTheOperation : Prop :=
  ∀ i : Instr, WellFormed i = true → decode (encode i) = .ok i

/-- R6, D2: whatever the host puts on the ports, an operation that is read from them has operands that fit them. -/
def Obligations.DecodedOperationsFitTheirPorts : Prop :=
  ∀ (r : Request) (i : Instr), decode r = .ok i → WellFormed i = true

/-- R73: the eighteen operation-select codes; every other code is refused with ValidationError and changes nothing. That
the first integer operand stands on port x, the second on port y and the others on ports b, d and f is the model's
choice (log entry 14). -/
def Obligations.OperationSelectCodes : Prop :=
  ∀ r : Request,
    (r.code = 0x00 → decode r = .ok (.ldaddr r.x.toInt)) ∧
      (r.code = 0x01 → decode r = .ok (.enc r.x.toInt r.y.toInt)) ∧
      (r.code = 0x02 → decode r = .ok (.dechdr r.b)) ∧
      (r.code = 0x03 → decode r = .ok (.dectlm r.b)) ∧
      (r.code = 0x04 → decode r = .ok (.sample r.d r.f)) ∧
      (r.code = 0x10 → decode r = .ok .rdtlm) ∧
      (r.code = 0x11 → decode r = .ok .czero) ∧
      (r.code = 0x12 → decode r = .ok (.setzero r.x.toInt)) ∧
      (r.code = 0x13 → decode r = .ok (.setspd r.x.toInt)) ∧
      (r.code = 0x14 → decode r = .ok .stop) ∧
      (r.code = 0x15 → decode r = .ok .clrflt) ∧
      (r.code = 0x16 → decode r = .ok .save) ∧
      (r.code = 0x17 → decode r = .ok (.setid r.x.toInt)) ∧
      (r.code = 0x18 → decode r = .ok (.setnlim r.x.toInt)) ∧
      (r.code = 0x19 → decode r = .ok (.setplim r.x.toInt)) ∧
      (r.code = 0x1A → decode r = .ok (.setpos r.x.toInt)) ∧
      (r.code = 0x1B → decode r = .ok .rezero) ∧
      (r.code = 0x1C → decode r = .ok .prepz) ∧
      (∀ s rest, (4 < r.code.toNat ∧ r.code.toNat < 16 ∨ 28 < r.code.toNat) → s.agenda = .ask r :: rest →
        step s = .next { s with agenda := rest, replies := s.replies ++ [.err .validationError] })

/-- R74: no command frame selects two of the non-pseudo rows. -/
def Obligations.FrameRowsAreDisjoint : Prop :=
  frameRows.Pairwise fun x y => x.1 ≠ y.1 ∧ x.1 &&& frameMask = x.1 ∧ y.1 &&& frameMask = y.1

/-- R74, R62, R65, R92: the frame a builder returns carries the address and selects the row of the builder, with its
operand (STOP and CLRFLT as SETSPD 0, SETPOS as clamped); for RDTLM with the default SUBCODE_POS. -/
def Obligations.BuiltFramesSelectTheirRow : Prop :=
  ∀ (i : Instr) (s t : State) (v : Reply) (b : Bytes),
    isBuilder i = true → (i = .rdtlm → s.cfg.subcodePos = .byte3) → exec i s = .next t →
      t.replies = s.replies ++ [v] → replyFrame v = some b → decodeFrame b = .ok (s.regs.addr, frameMeaning i)

/-- A few words written out from the encodings of R62, R54 and R73 decode to what they stand for. -/
def Obligations.WrittenWordsDecode : Prop :=
  decodeTableWord 48 0xAA01C000589E = some (.setspd (-25000)) ∧
    decodeTableWord 48 0xAA10F100D4FE = some (.setzero (-300)) ∧
    decodeTableWord 48 0xAA0108070000 = some .rdtlm ∧
    decodeTableWord 48 0xAA01C1000000 = none ∧
    decodeTableWord 56 0xAB3412A8612C01 = some (.dectlm [0xAB, 0x34, 0x12, 0xA8, 0x61, 0x2C, 0x01]) ∧
    decodeTableWord 8 0x1C = some .prepz ∧ decodeTableWord 8 0x05 = none

/-! ### Codec -/

/-- R75: LDADDR: Busy during a run, ValidationError outside 0..255, otherwise the address is loaded. -/
def Obligations.LdaddrLoadsOrRefuses : Prop :=
  ∀ (a : Int) (s : State),
    (s.regs.sst ≠ .idle → exec (.ldaddr a) s = .next { s with replies := s.replies ++ [.err .busy] }) ∧
      (s.regs.sst = .idle → a < 0 ∨ 255 < a →
        exec (.ldaddr a) s =
          .next
            { s with
              regs := { s.regs with lastErr := .validationError }
              replies := s.replies ++ [.err .validationError] }) ∧
      (s.regs.sst = .idle → 0 ≤ a → a ≤ 255 →
        exec (.ldaddr a) s =
          .next
            { s with
              regs := { s.regs with addr := BitVec.ofInt 8 a, addrV := true, lastErr := .ok }
              replies := s.replies ++ [.done] })

/-- R77: ENC: ValidationError without an address, for an opcode outside 0..255 or a parameter outside REP16; otherwise
the six bytes. -/
def Obligations.EncBuildsOrRefuses : Prop :=
  ∀ (op p : Int) (s : State),
    (s.regs.addrV = false ∨ op < 0 ∨ 255 < op ∨ p < -32768 ∨ 65535 < p →
        exec (.enc op p) s = .next { s with replies := s.replies ++ [.err .validationError] }) ∧
      (s.regs.addrV = true → 0 ≤ op → op ≤ 255 → -32768 ≤ p → p ≤ 65535 →
        exec (.enc op p) s =
          .next
            { s with
              replies :=
                s.replies ++
                  [.frame [0xAA, s.regs.addr, BitVec.ofInt 8 op, 0x00, lo8 (u16 p), hi8 (u16 p)]] })

/-- R78 (L3, L4): two ENC results for one address are equal exactly when the opcodes are equal and the parameters have
one 16-bit image. -/
def Obligations.EncFramesAreInjectiveInTheImage : Prop :=
  ∀ (op op' p p' : Int) (s : State),
    s.regs.addrV = true → 0 ≤ op → op ≤ 255 → 0 ≤ op' → op' ≤ 255 → -32768 ≤ p → p ≤ 65535 → -32768 ≤ p' →
      p' ≤ 65535 → (exec (.enc op p) s = exec (.enc op' p') s ↔ op = op' ∧ (p - p') % 65536 = 0)

/-- R80: DECHDR accepts exactly the six-byte frames with header 0xAA and a legal byte 3 and returns both views of the
parameter; and it reads back what ENC was given. -/
def Obligations.DechdrParsesOrRejects : Prop :=
  ∀ s : State,
    (∀ a op pad lo hi : Byte, pad = 0x00 ∨ (pad = 0x07 ∧ op = 0x08 ∧ s.cfg.subcodePos = .byte3) →
        exec (.dechdr [0xAA, a, op, pad, lo, hi]) s =
          .next
            { s with
              replies :=
                s.replies ++
                  [.header
                    { addr := a, opcode := op, sub := pad, paramU := lo.toNat + 256 * hi.toNat,
                      paramS := sext16 (le16 lo hi) }] }) ∧
      (∀ b : Bytes,
        (¬ ∃ a op pad lo hi : Byte, b = [0xAA, a, op, pad, lo, hi] ∧
            (pad = 0x00 ∨ (pad = 0x07 ∧ op = 0x08 ∧ s.cfg.subcodePos = .byte3))) →
          exec (.dechdr b) s = .next { s with replies := s.replies ++ [.err .badFrame] }) ∧
      (∀ op p : Int, s.regs.addrV = true → 0 ≤ op → op ≤ 255 → -32768 ≤ p → p ≤ 65535 →
        ∃ (b : Bytes) (h : Header),
          exec (.enc op p) s = .next { s with replies := s.replies ++ [.frame b] } ∧
            exec (.dechdr b) s = .next { s with replies := s.replies ++ [.header h] } ∧
            h.addr = s.regs.addr ∧ (h.opcode.toNat : Int) = op ∧ h.sub = 0 ∧ h.paramU = (u16 p).toNat ∧
            (p ≤ 32767 → h.paramS = p) ∧ (32767 < p → h.paramS = p - 65536) ∧ (0 ≤ p → (h.paramU : Int) = p))

/-- R78 (L6), R67, R80: DECHDR accepts every frame the block builds, RDTLM's for every SUBCODE_POS included. -/
def Obligations.BuiltFramesAreAcceptedByDechdr : Prop :=
  ∀ (i : Instr) (s t : State) (v : Reply) (b : Bytes),
    exec i s = .next t → t.replies = s.replies ++ [v] → replyFrame v = some b →
      b.length = 6 ∧ b.head? = some 0xAA ∧
        ∃ h : Header,
          h.addr = s.regs.addr ∧
            exec (.dechdr b) t = .next { t with replies := t.replies ++ [.header h] }

/-- R107: DECTLM: Truncated under seven bytes, BadMarker for a wrong first byte when CHECK_MARKER is set, otherwise the
record; the position is free when the raw value is above 0x3FFF (log entry 11), and flagged. -/
def Obligations.DectlmDecodesOrRejects : Prop :=
  ∀ s : State,
    (∀ b : Bytes, b.length < 7 →
        exec (.dectlm b) s = .next { s with replies := s.replies ++ [.err .truncated] }) ∧
      (∀ (m p0 p1 s0 s1 c0 c1 : Byte) (rest : Bytes),
        (s.cfg.checkMarker = true → m ≠ 0xAB#8 →
          exec (.dectlm (m :: p0 :: p1 :: s0 :: s1 :: c0 :: c1 :: rest)) s =
            .next { s with replies := s.replies ++ [.err .badMarker] }) ∧
        (s.cfg.checkMarker = false ∨ m = 0xAB#8 →
          ∃ position : Int,
            exec (.dectlm (m :: p0 :: p1 :: s0 :: s1 :: c0 :: c1 :: rest)) s =
              .next
                { s with
                  replies :=
                    s.replies ++
                      [.telemetry
                        { position := position
                          speed := sext16 (le16 s0 s1)
                          current := c0.toNat + 256 * c1.toNat
                          posOor := decide (0x3FFF < p0.toNat + 256 * p1.toNat) }] } ∧
              (p0.toNat + 256 * p1.toNat ≤ 0x3FFF → position = 0x3FFF - (p0.toNat + 256 * p1.toNat : Int))))

/-- R106: of a response longer than seven bytes only the first seven count. -/
def Obligations.DectlmReadsTheFirstSevenBytes : Prop :=
  ∀ (b : Bytes) (s : State), 7 < b.length → exec (.dectlm b) s = exec (.dectlm (b.take 7)) s

/-- R108 (L4): whatever the other fields are, bytes 3 and 4 that carry the image of a 16-bit speed give that speed
back. -/
def Obligations.TelemetrySpeedIsTheCommandImage : Prop :=
  ∀ (v : Int) (p0 p1 c0 c1 : Byte) (rest : Bytes) (s : State),
    -32768 ≤ v → v ≤ 32767 →
      ∃ r : Telemetry,
        exec (.dectlm (0xAB :: p0 :: p1 :: lo8 (u16 v) :: hi8 (u16 v) :: c0 :: c1 :: rest)) s =
            .next { s with replies := s.replies ++ [.telemetry r] } ∧
          r.speed = v

/-- R102: the position law: 0x3FFF - raw for a raw value in range, and decoding the decoded value gives the raw value
back. -/
def Obligations.PositionIsInverted : Prop :=
  ∀ raw : Half, raw.toNat ≤ 0x3FFF →
    positionOf raw = 0x3FFF - (raw.toNat : Int) ∧ 0 ≤ positionOf raw ∧ positionOf raw ≤ 16383 ∧
      positionOf (u16 (positionOf raw)) = raw.toNat

/-! ### Builders -/

/-- R83, R86, R87, R88, R93, R94: the builders without operand: ValidationError without an address, otherwise the frame
with parameter 0; CLRFLT's bytes are STOP's. -/
def Obligations.PlainBuildersBuildOrRefuse : Prop :=
  ∀ (i : Instr) (opc : Byte) (s : State),
    (i, opc) ∈ ([(.czero, 0x0B), (.stop, 0xC0), (.clrflt, 0xC0), (.save, 0xB0), (.rezero, 0xC7), (.prepz, 0xF2)] :
        List (Instr × Byte)) →
      (s.regs.addrV = false → exec i s = .next { s with replies := s.replies ++ [.err .validationError] }) ∧
        (s.regs.addrV = true →
          exec i s = .next { s with replies := s.replies ++ [.frame [0xAA, s.regs.addr, opc, 0x00, 0x00, 0x00]] })

/-- R84, R85, R90, R91: the builders with a signed 16-bit operand: ValidationError without an address or outside
-32768..32767, otherwise the frame with the operand's image. -/
def Obligations.SignedBuildersBuildOrRefuse : Prop :=
  ∀ (v : Int) (i : Instr) (opc : Byte) (s : State),
    (i, opc) ∈ ([(.setzero v, 0xF1), (.setspd v, 0xC0), (.setnlim v, 0xC8), (.setplim v, 0xC9)] :
        List (Instr × Byte)) →
      (s.regs.addrV = false ∨ v < -32768 ∨ 32767 < v →
          exec i s = .next { s with replies := s.replies ++ [.err .validationError] }) ∧
        (s.regs.addrV = true → -32768 ≤ v → v ≤ 32767 →
          exec i s =
            .next { s with replies := s.replies ++ [.frame [0xAA, s.regs.addr, opc, 0x00, lo8 (u16 v), hi8 (u16 v)]] })

/-- R89: SETID: ValidationError without an address or outside 0..255, otherwise the frame with the new address in the
low byte and 0 in the high byte; ADDR is not changed. -/
def Obligations.SetidBuildsOrRefuses : Prop :=
  ∀ (n : Int) (s : State),
    (s.regs.addrV = false ∨ n < 0 ∨ 255 < n →
        exec (.setid n) s = .next { s with replies := s.replies ++ [.err .validationError] }) ∧
      (s.regs.addrV = true → 0 ≤ n → n ≤ 255 →
        exec (.setid n) s =
          .next { s with replies := s.replies ++ [.frame [0xAA, s.regs.addr, 0xF0, 0x00, BitVec.ofInt 8 n, 0x00]] })

/-- R92: SETPOS clamps its operand to -8191..8191, never refuses it, and says whether it clamped. -/
def Obligations.SetposClamps : Prop :=
  ∀ (x c : Int) (s : State),
    (x < -8191 → c = -8191) → (8191 < x → c = 8191) → (-8191 ≤ x → x ≤ 8191 → c = x) →
      (s.regs.addrV = false → exec (.setpos x) s = .next { s with replies := s.replies ++ [.err .validationError] }) ∧
        (s.regs.addrV = true →
          exec (.setpos x) s =
            .next
              { s with
                replies :=
                  s.replies ++
                    [.jogFrame [0xAA, s.regs.addr, 0xC2, 0x00, lo8 (u16 c), hi8 (u16 c)] (decide (c ≠ x))] })

/-- R82: RDTLM: ValidationError without an address, otherwise the request with the sub-code at SUBCODE_POS. -/
def Obligations.RdtlmBuildsOrRefuses : Prop :=
  ∀ s : State,
    (s.regs.addrV = false → exec .rdtlm s = .next { s with replies := s.replies ++ [.err .validationError] }) ∧
      (s.regs.addrV = true →
        exec .rdtlm s =
          .next
            { s with
              replies :=
                s.replies ++
                  [.frame
                    (match s.cfg.subcodePos with
                    | .byte3 => [0xAA, s.regs.addr, 0x08, 0x07, 0x00, 0x00]
                    | .byte4 => [0xAA, s.regs.addr, 0x08, 0x00, 0x07, 0x00]
                    | .byte5 => [0xAA, s.regs.addr, 0x08, 0x00, 0x00, 0x07])] })

/-- R65: STOP is SETSPD 0 and CLRFLT is STOP, and a frame decoder reports both as SETSPD with parameter 0. -/
def Obligations.StopAndClearFaultAreSetSpeedZero : Prop :=
  ∀ s : State, exec .stop s = exec (.setspd 0) s ∧ exec .clrflt s = exec .stop s ∧
    ∀ a : Byte, decodeFrame [0xAA, a, 0xC0, 0x00, 0x00, 0x00] = .ok (a, .setspd 0)

/-! ### Purity and the write matrix -/

/-- R13, R95: every operation but LDADDR and SAMPLE writes no register and touches no transport, in any state of the
sampler, and what it returns depends on ADDR, ADDR_V and the block's arguments alone. -/
def Obligations.PureOperationsDependOnTheAddressAlone : Prop :=
  ∀ (i : Instr) (s : State), isPure i = true →
    ∃ v : Reply, ∀ s' : State, s'.regs.addr = s.regs.addr → s'.regs.addrV = s.regs.addrV → s'.cfg = s.cfg →
      exec i s' = .next { s' with replies := s'.replies ++ [v] }

/-- R31: which operation writes which register. -/
def Obligations.OperationsWriteTheirRegistersOnly : Prop :=
  ∀ (i : Instr) (s t : State), exec i s = .next t →
    ((∀ a, i ≠ .ldaddr a) → t.regs.addr = s.regs.addr ∧ t.regs.addrV = s.regs.addrV) ∧
      ((∀ d f, i ≠ .sample d f) →
        t.regs.n = s.regs.n ∧ t.regs.ivl = s.regs.ivl ∧ t.regs.t0 = s.regs.t0 ∧ t.regs.idx = s.regs.idx ∧
          t.regs.acc = s.regs.acc ∧ t.regs.errcnt = s.regs.errcnt ∧ t.regs.sst = s.regs.sst) ∧
      (isPure i = true → t.regs.lastErr = s.regs.lastErr)

/-- R166, R163, R168: an operation that ends in an error has changed nothing but LASTERR, and that only for LDADDR and
SAMPLE and never for Busy. -/
def Obligations.RefusedOperationsArePrecise : Prop :=
  ∀ (i : Instr) (s t : State) (e : ErrCode), exec i s = .next t → t.replies = s.replies ++ [.err e] →
    t =
      { s with
        regs := if isPure i = true ∨ e = .busy then s.regs else { s.regs with lastErr := e }
        replies := s.replies ++ [.err e] }

/-- R10: every operation of the opcode table has an outcome in every state, and outside the calibration engine no step
stops the machine. That an error is a next state, where R10 offers a model refusals and faults, is the model's choice
(log entry 1), and so is that a step in which the block is held by the clock is a next state, equal but for the turn
(log entry 12). -/
def Obligations.TheBlockNeverStops : Prop :=
  (∀ (i : Instr) (s : State), ∃ t, exec i s = .next t) ∧ ∀ s : State, engineFree s → ∃ t, step s = .next t

/-- R15, R16: ADDR and ADDR_V change only by a successful LDADDR, which sets ADDR_V, and by reset. -/
def Obligations.AddressChangesByLdaddrOrReset : Prop :=
  ∀ s t : State, step s = .next t →
    (t.regs.addr = s.regs.addr ∧ t.regs.addrV = s.regs.addrV) ∨
      (∃ rest, s.agenda = .reset :: rest) ∨
      ∃ r rest a, s.agenda = .ask r :: rest ∧ decode r = .ok (.ldaddr a) ∧ s.regs.sst = .idle ∧ 0 ≤ a ∧ a ≤ 255 ∧
        (t.regs.addr.toNat : Int) = a ∧ t.regs.addrV = true

/-- R14 (i), R188: no step writes the block's arguments. -/
def Obligations.ArgumentsAreNeverWritten : Prop :=
  ∀ s t : State, step s = .next t → t.cfg = s.cfg

/-! ### The sampler -/

/-- R110 to R113: SAMPLE's entry checks, in their order, and what they leave. -/
def Obligations.SampleEntryChecks : Prop :=
  ∀ (d f : Time) (s : State),
    (s.regs.sst ≠ .idle → exec (.sample d f) s = .next { s with replies := s.replies ++ [.err .busy] }) ∧
      (s.regs.sst = .idle → s.regs.addrV = false →
        exec (.sample d f) s =
          .next
            { s with
              regs := { s.regs with lastErr := .validationError }
              replies := s.replies ++ [.err .validationError] }) ∧
      (s.regs.sst = .idle → s.regs.addrV = true → (d * f).floor < 1 →
        exec (.sample d f) s =
          .next
            { s with
              regs := { s.regs with lastErr := .emptySample }
              replies := s.replies ++ [.err .emptySample] }) ∧
      (s.regs.sst = .idle → s.regs.addrV = true → 1 ≤ (d * f).floor → f < 0 ∨ 4294967295 < (d * f).floor →
        exec (.sample d f) s =
          .next
            { s with
              regs := { s.regs with lastErr := .validationError }
              replies := s.replies ++ [.err .validationError] }) ∧
      (1 ≤ (d * f).floor → ¬ f < 0 → 0 < d ∧ 0 < f)

/-- R115: when the checks pass, SAMPLE writes the count and the interval, clears the counters, reads the clock once and
goes to S_REQ. -/
def Obligations.SampleStartsTheRun : Prop :=
  ∀ (d f : Time) (s : State),
    s.regs.sst = .idle → s.regs.addrV = true → 1 ≤ (d * f).floor → (d * f).floor ≤ 4294967295 → 0 ≤ f →
      exec (.sample d f) s =
        .next
          { s with
            regs :=
              { s.regs with
                n := BitVec.ofInt 32 (d * f).floor
                ivl := 1 / f
                acc := 0
                errcnt := 0
                idx := 0
                t0 := s.now
                sst := .req } }

/-- R114: the interval is 1 / f and positive, and the scheduled run is never longer than the duration, and shorter by
less than one interval. -/
def Obligations.ScheduledRunFitsTheDuration : Prop :=
  ∀ (d f : Time) (s t : State), exec (.sample d f) s = .next t → t.regs.sst = .req → s.regs.sst = .idle →
    t.regs.ivl = 1 / f ∧ 0 < t.regs.ivl ∧ (t.regs.n.toNat : Rat) * t.regs.ivl ≤ d ∧
      d < ((t.regs.n.toNat : Rat) + 1) * t.regs.ivl

/-- R117, R126: S_REQ writes the six bytes of the request once, and reads and discards nothing; the run goes on to
S_RESP, or a TransportError ends it and keeps what was accumulated. The answer is the transport's next, if one is
fixed. -/
def Obligations.RequestRowWritesOnce : Prop :=
  ∀ (s : State) (rest : List Turn), s.regs.sst = .req → s.agenda = .block :: rest →
    ∃ (a : TxAnswer) (t : State),
      step s = .next t ∧ (∀ a' q, s.txq = a' :: q → a = a' ∧ t.txq = q) ∧
        t.trace = s.trace ++ [.wrote .block (requestFrame s.cfg.subcodePos s.regs.addr) a] ∧
        (requestFrame s.cfg.subcodePos s.regs.addr).length = 6 ∧
        (s.cfg.subcodePos = .byte3 →
          requestFrame s.cfg.subcodePos s.regs.addr = [0xAA, s.regs.addr, 0x08, 0x07, 0x00, 0x00]) ∧
        (a = .accepted → t.regs = { s.regs with sst := .resp } ∧ t.replies = s.replies) ∧
        (a = .failed →
          t.regs = { s.regs with sst := .idle, lastErr := .transportError } ∧
            t.replies = s.replies ++ [.err .transportError]) ∧
        t.agenda = rest ∧ t.cfg = s.cfg ∧ t.inHand = s.inHand ∧ t.now = s.now ∧ t.rxq = s.rxq ∧
        t.session = s.session ∧ t.ended = s.ended

/-- R118, R126: S_RESP makes one read with timeout T_RD and takes what comes back, of any length; a TransportError ends
the run. -/
def Obligations.ResponseRowReadsOnce : Prop :=
  ∀ (s : State) (rest : List Turn), s.regs.sst = .resp → s.agenda = .block :: rest →
    ∃ (a : RxAnswer) (t : State),
      step s = .next t ∧ (∀ a' q, s.rxq = a' :: q → a = a' ∧ t.rxq = q) ∧
        t.trace = s.trace ++ [.read .block s.cfg.readTimeout.val a] ∧
        (∀ b, a = .bytes b → t.regs = { s.regs with sst := .acc } ∧ t.inHand = b ∧ t.replies = s.replies) ∧
        (a = .failed →
          t.regs = { s.regs with sst := .idle, lastErr := .transportError } ∧ t.inHand = s.inHand ∧
            t.replies = s.replies ++ [.err .transportError]) ∧
        t.agenda = rest ∧ t.cfg = s.cfg ∧ t.now = s.now ∧ t.txq = s.txq ∧ t.session = s.session ∧ t.ended = s.ended

/-- R126: a write or a read that fails ends the run at once: S_IDLE, code 5, the host gets TransportError; the other
registers keep their values, and nothing more is written, read or waited for. -/
def Obligations.TransportErrorEndsTheRun : Prop :=
  ∀ (s : State) (rest : List Turn), s.agenda = .block :: rest →
    (∀ q, s.regs.sst = .req → s.txq = .failed :: q →
        step s =
          .next
            { s with
              agenda := rest
              txq := q
              trace := s.trace ++ [.wrote .block (requestFrame s.cfg.subcodePos s.regs.addr) .failed]
              regs := { s.regs with sst := .idle, lastErr := .transportError }
              replies := s.replies ++ [.err .transportError] }) ∧
      (∀ q, s.regs.sst = .resp → s.rxq = .failed :: q →
        step s =
          .next
            { s with
              agenda := rest
              rxq := q
              trace := s.trace ++ [.read .block s.cfg.readTimeout.val .failed]
              regs := { s.regs with sst := .idle, lastErr := .transportError }
              replies := s.replies ++ [.err .transportError] }) ∧
      errNumber .transportError = 5

/-- R119, R120: S_ACC adds the speed DECTLM gives for the response in hand, or 0 with one count in ERRCNT when DECTLM
gives an error. The speed is in S16, and in sound registers the sum does not overflow. -/
def Obligations.AccumulateRowAddsTheSpeed : Prop :=
  ∀ (s : State) (rest : List Turn), s.regs.sst = .acc → s.agenda = .block :: rest →
    (∀ r : Telemetry, exec (.dectlm s.inHand) s = .next { s with replies := s.replies ++ [.telemetry r] } →
        step s =
          .next
            { s with
              agenda := rest
              regs := { s.regs with acc := s.regs.acc + BitVec.ofInt 48 r.speed, sst := .pace } } ∧
          -32768 ≤ r.speed ∧ r.speed ≤ 32767 ∧
          (s.regs.Sound → (s.regs.acc + BitVec.ofInt 48 r.speed).toInt = s.regs.acc.toInt + r.speed)) ∧
      (∀ e : ErrCode, exec (.dectlm s.inHand) s = .next { s with replies := s.replies ++ [.err e] } →
        step s =
          .next { s with agenda := rest, regs := { s.regs with errcnt := s.regs.errcnt + 1, sst := .pace } })

/-- R6, D14: a wait's deadline is its target on a continuous clock, and otherwise the next multiple of the tick, never
earlier than the target. -/
def Obligations.DeadlinesAreRoundedUp : Prop :=
  ∀ (tick : Option PosTime) (target : Time),
    target ≤ deadline tick target ∧ (tick = none → deadline tick target = target) ∧
      ∀ p, tick = some p → deadline tick target < target + p.val ∧ ∃ k : Int, deadline tick target = (k : Rat) * p.val

/-- R121 to R124: in S_PACE the block is held while the clock is short of the slot's scheduled end, rounded up to a tick
where the clock has one; at or after it there is no wait, and the next slot begins, or the run ends with the exact mean
of the sum. -/
def Obligations.PaceRowWaitsAndAdvances : Prop :=
  ∀ (s : State) (rest : List Turn) (ending : Time), s.regs.sst = .pace → s.agenda = .block :: rest →
    ending = deadline s.cfg.tick (s.regs.t0 + ((s.regs.idx.toNat : Rat) + 1) * s.regs.ivl) →
      (s.now < ending → step s = .next { s with agenda := rest }) ∧
        (ending ≤ s.now → s.regs.idx + 1 < s.regs.n →
          step s =
            .next { s with agenda := rest, regs := { s.regs with idx := s.regs.idx + 1, sst := .req } }) ∧
        (ending ≤ s.now → ¬ s.regs.idx + 1 < s.regs.n →
          step s =
            .next
              { s with
                agenda := rest
                regs := { s.regs with idx := s.regs.idx + 1, sst := .idle, lastErr := .ok }
                replies :=
                  s.replies ++
                    [.sampled
                      { sum := s.regs.acc.toInt
                        count := s.regs.n.toNat
                        mean := (s.regs.acc.toInt : Rat) / (s.regs.n.toNat : Rat)
                        errcnt := s.regs.errcnt.toNat }] })

/-- R129, R123, R47: a SAMPLE whose requests are accepted and whose reads return `bs`, and in which the clock is set to
anything at any time, never stops, and if it ends it ends Ok, with one write and one read for each slot, the sum of the
speeds, the exact mean over all of them and the count of substituted samples. Whether it ends is for the clock
(RunsEndWhenTheClockAdvances). -/
def Obligations.SampleReturnsTheMeanOfItsReadings : Prop :=
  ∀ (d f : Time) (s : State) (bs : List Bytes) (txq : List TxAnswer) (rxq : List RxAnswer),
    s.regs.sst = .idle → s.regs.addrV = true → 0 ≤ f → 1 ≤ bs.length → (bs.length : Int) ≤ 4294967295 →
      (d * f).floor = bs.length → (∀ x ∈ s.agenda, x = .block ∨ ∃ reading, x = .clock reading) →
      s.txq = List.replicate bs.length .accepted ++ txq → s.rxq = bs.map .bytes ++ rxq →
      ∃ s0 t : State,
        exec (.sample d f) s = .next s0 ∧ Host.Core.run Sys2Proof.core s.agenda.length s0 = .next t ∧
          (t.regs.sst = .idle →
            t.regs.lastErr = .ok ∧ t.regs.n.toNat = bs.length ∧ t.regs.idx = t.regs.n ∧
              t.regs.acc.toInt = speedSum s.cfg.checkMarker bs ∧
              t.regs.errcnt.toNat = lostCount s.cfg.checkMarker bs ∧ t.regs.addr = s.regs.addr ∧
              t.replies =
                s.replies ++
                  [.sampled
                    { sum := speedSum s.cfg.checkMarker bs
                      count := bs.length
                      mean := (speedSum s.cfg.checkMarker bs : Rat) / (bs.length : Rat)
                      errcnt := lostCount s.cfg.checkMarker bs }] ∧
              t.trace =
                s.trace ++ slotAccesses s.cfg.readTimeout.val (requestFrame s.cfg.subcodePos s.regs.addr) bs ∧
              t.txq = txq ∧ t.rxq = rxq)

/-- R128, R172, R197: with the premise that the clock progresses, a run ends: if in each slot, once the block is held,
the clock reaches the slot's end, then a SAMPLE of `n` slots whose requests are accepted and whose reads return ends Ok
after four moves of the block for each slot. -/
def Obligations.RunsEndWhenTheClockAdvances : Prop :=
  ∀ (d f : Time) (s : State) (bs : List Bytes) (readings : List Time) (txq : List TxAnswer) (rxq : List RxAnswer),
    s.regs.sst = .idle → s.regs.addrV = true → 0 ≤ f → 1 ≤ bs.length → (bs.length : Int) ≤ 4294967295 →
      (d * f).floor = bs.length → readings.length = bs.length → ClockReaches s.cfg.tick s.now (1 / f) readings →
      s.agenda = pacedTurns readings → s.txq = List.replicate bs.length .accepted ++ txq →
      s.rxq = bs.map .bytes ++ rxq →
      ∃ s0 t : State,
        exec (.sample d f) s = .next s0 ∧ Host.Core.run Sys2Proof.core (5 * bs.length) s0 = .next t ∧
          t.agenda = [] ∧ t.regs.sst = .idle ∧ t.regs.lastErr = .ok ∧ t.regs.n.toNat = bs.length ∧
          t.regs.idx = t.regs.n

/-- R128, R126, R123: a run that a step ends was ended by reset, by its result or by a TransportError. -/
def Obligations.RunsEndByResultFailureOrReset : Prop :=
  ∀ s t : State, step s = .next t → s.regs.sst ≠ .idle → t.regs.sst = .idle →
    (∃ rest, s.agenda = .reset :: rest) ∨ (∃ r, t.replies = s.replies ++ [.sampled r] ∧ t.regs.idx = s.regs.idx + 1) ∨
      t.replies = s.replies ++ [.err .transportError]

/-- R39, R40, R44, R47: a step only adds to the accesses made; the block's own are the request in S_REQ and a read with
T_RD in S_RESP, at most one a step. -/
def Obligations.BlockAccessesAreTheRowsOfARun : Prop :=
  ∀ s t : State, step s = .next t →
    ∃ l : List Access, t.trace = s.trace ++ l ∧ l.length ≤ 2 ∧
      (∀ b a, .wrote .block b a ∈ l →
        l.length = 1 ∧ s.regs.sst = .req ∧ b = requestFrame s.cfg.subcodePos s.regs.addr ∧ b.length = 6) ∧
      (∀ timeout a, .read .block timeout a ∈ l → l.length = 1 ∧ s.regs.sst = .resp ∧ timeout = s.cfg.readTimeout.val)

/-! ### Invariants -/

/-- R16, R18 to R20, R22, R25: every step of every agent keeps the registers sound: IDX at most N, ERRCNT and ACC within
the readings taken (no overflow), a positive interval and a loaded address during a run, only storable codes. -/
def Obligations.StepsKeepTheRegistersSound : Prop :=
  ∀ s t : State, s.regs.Sound → step s = .next t → t.regs.Sound

/-- R130: with a clock that does not run backwards, in slot IDX of a run the clock has reached T0 + IDX * IVL: request i
is never issued before T0 + i * IVL. -/
def Obligations.StepsKeepThePace : Prop :=
  ∀ s t : State, s.regs.Sound → OnSchedule s → ClockForward s → step s = .next t → OnSchedule t

/-- The registers are sound and the pace is kept at reset (R184 to R187). -/
def Obligations.ResetIsSoundAndOnSchedule : Prop :=
  State.reset.regs.Sound ∧ OnSchedule State.reset

/-! ### Reset, requests, registers -/

/-- R184 to R187: the values of the registers after reset, and that every operation that would put ADDR in a frame is
refused there; T0 and IVL are unspecified and not stated. -/
def Obligations.ResetValues : Prop :=
  State.reset.regs.addr = 0 ∧ State.reset.regs.addrV = false ∧ State.reset.regs.n = 0 ∧ State.reset.regs.idx = 0 ∧
    State.reset.regs.acc = 0 ∧ State.reset.regs.errcnt = 0 ∧ State.reset.regs.sst = .idle ∧
    State.reset.regs.lastErr = .ok ∧
    (∀ i : Instr, (isBuilder i = true ∨ (∃ op p, i = .enc op p) ∨ ∃ d f, i = .sample d f) →
      ∃ t, exec i State.reset = .next t ∧ t.replies = [.err .validationError] ∧ t.trace = [])

/-- R183, R189: the reset event sets the registers from any state, a run included, makes no transport access, and
touches neither the transport, the clock, the host nor the arguments. That a run it cuts short hands the host no outcome is
the model's choice (log entry 31). -/
def Obligations.ResetEventEndsEverythingAtOnce : Prop :=
  ∀ (s : State) (rest : List Turn), s.agenda = .reset :: rest →
    ∃ t0 ivl draws,
      step s =
        .next
          { s with
            agenda := rest
            inHand := []
            draws := draws
            regs :=
              { addr := 0, addrV := false, n := 0, idx := 0, acc := 0, errcnt := 0, t0 := t0, ivl := ivl,
                sst := .idle, lastErr := .ok } }

/-- A step runs the operation the host asks for (R2, R73); the step's own part is to take the turn off the agenda. -/
def Obligations.StepRunsTheDecodedOperation : Prop :=
  ∀ (s : State) (r : Request) (rest : List Turn) (i : Instr),
    s.agenda = .ask r :: rest → decode r = .ok i → step s = exec i { s with agenda := rest }

/-- With no turn on the agenda the clock moves of itself if it is waited for, to a reading that is not earlier and about
which nothing else is said; otherwise the block carries its run on, and without a run and a session it waits for the
host (R116, R121, R172, R188). All of this is the model's choice (log entries 6 and 12). -/
def Obligations.EmptyAgendaLeavesTheMoveToTheBlock : Prop :=
  ∀ s : State, s.agenda = [] →
    (s.regs.sst ≠ .idle → held s = false → step s = step { s with agenda := [.block] }) ∧
      (held s = true → ∃ reading draws, s.now ≤ reading ∧ step s = .next { s with now := reading, draws := draws }) ∧
      (s.regs.sst = .idle → s.session = none → step s = .next s)

/-- R27: the fields of STATUS, and that reading it has no side effect. -/
def Obligations.StatusFields : Prop :=
  ∀ r : Regs,
    (statusWord r).extractLsb' 0 3 = sstNumber r.sst ∧
      ((statusWord r).getLsbD 3 = true ↔ r.sst ≠ .idle) ∧
      (statusWord r).extractLsb' 4 4 = errNumber r.lastErr ∧ (statusWord r).getLsbD 8 = r.addrV ∧
      ∀ (s : State) (rest : List Turn), s.agenda = .readReg 1 :: rest → s.regs = r →
        step s =
          .next { s with agenda := rest, replies := s.replies ++ [.register (.unsigned (statusWord r).toNat)] }

/-- R28: the registers by number; reading one has no side effect. -/
def Obligations.RegisterReads : Prop :=
  ∀ (s : State) (no : Fin 8) (rest : List Turn), s.agenda = .readReg no :: rest →
    ∃ v : RegValue,
      step s = .next { s with agenda := rest, replies := s.replies ++ [.register v] } ∧
        (no = 0 → v = .unsigned s.regs.addr.toNat) ∧ (no = 1 → v = .unsigned (statusWord s.regs).toNat) ∧
        (no = 2 → v = .unsigned s.regs.n.toNat) ∧ (no = 3 → v = .unsigned s.regs.idx.toNat) ∧
        (no = 4 → v = .signed s.regs.acc.toInt) ∧ (no = 5 → v = .unsigned s.regs.errcnt.toNat) ∧
        (no = 6 → v = .time s.regs.t0) ∧ (no = 7 → v = .time s.regs.ivl)

/-! ### The calibration engine (the host, outside the block) -/

/-- R143: the step-size table, all comparisons strict. -/
def Obligations.StepSizeTable : Prop :=
  ∀ a : Rat,
    (50 < a → stepSize a = 20) ∧ (30 < a → a ≤ 50 → stepSize a = 15) ∧ (25 < a → a ≤ 30 → stepSize a = 10) ∧
      (15 < a → a ≤ 25 → stepSize a = 5) ∧ (a ≤ 15 → stepSize a = 2)

/-- R141, R142: the evaluation takes the difference of the means' absolute values; a difference of at most 2 either way
converges and returns the offset as it is, and no frame is sent. -/
def Obligations.EvaluationConvergesWithinTwo : Prop :=
  ∀ (s : State) (rest : List Turn) (c : Session) (fwd rev diff : Rat),
    s.agenda = .engine :: rest → s.session = some c → c.phase = .evaluate fwd rev → diff = |fwd| - |rev| →
      (|diff| ≤ 2 →
          step s =
            .next
              { s with
                agenda := rest
                session := none
                ended := some (.converged, { c with lastDifference := some diff, converged := true }) }) ∧
        (2 < |diff| →
          step s =
            .next
              { s with
                agenda := rest
                session := some { c with lastDifference := some diff, phase := .adjust diff } })

/-- R144 to R146: the adjustment sends SETZERO of the new offset, decreased when forward was faster and increased
otherwise; then the next iteration starts, or the budget is spent and the last offset is returned. -/
def Obligations.AdjustmentSendsTheNewOffset : Prop :=
  ∀ (s : State) (rest : List Turn) (c : Session) (diff : Rat) (z : Int) (q : List TxAnswer),
    s.agenda = .engine :: rest → s.session = some c → c.phase = .adjust diff → s.regs.addrV = true →
      s.txq = .accepted :: q → (0 < diff → z = c.zeroOffset.toInt - stepSize |diff|) →
      (¬ 0 < diff → z = c.zeroOffset.toInt + stepSize |diff|) → -32768 ≤ z → z ≤ 32767 →
      ∃ t : State,
        step s = .next t ∧
          t.trace =
            s.trace ++
              [.wrote .host [0xAA, s.regs.addr, 0xF1, 0x00, lo8 (u16 z), hi8 (u16 z)] .accepted] ∧
          t.regs = s.regs ∧
          (c.iteration < c.params.maxIter →
            t.session = some { c with zeroOffset := u16 z, iteration := c.iteration + 1, phase := .start } ∧
              t.ended = s.ended) ∧
          (c.params.maxIter ≤ c.iteration →
            t.session = none ∧ t.ended = some (.maxIterationsExceeded, { c with zeroOffset := u16 z }))

/-- R145, U15, N28: an offset that leaves -32768..32767 is where a model of the host refuses: nothing says that the
engine clamps, wraps or stops. -/
def Obligations.OffsetLeavingTheRangeIsRefused : Prop :=
  ∀ (s : State) (rest : List Turn) (c : Session) (diff : Rat) (z : Int),
    s.agenda = .engine :: rest → s.session = some c → c.phase = .adjust diff →
      (0 < diff → z = c.zeroOffset.toInt - stepSize |diff|) →
      (¬ 0 < diff → z = c.zeroOffset.toInt + stepSize |diff|) → z < -32768 ∨ 32767 < z →
      step s = .refused (.offsetOutOfRange z)

/-- R149: in every phase of the engine that sends a stop or a speed, that phase's frame is sent, and when the send fails
it is followed by one best-effort stop, whatever its own answer, and ends the session. That the record returned is the
session's as it stood is the model's choice (log entry 28). -/
def Obligations.FailedSendIsFollowedByAStop : Prop :=
  ∀ (s : State) (rest : List Turn) (c : Session) (a : TxAnswer) (q : List TxAnswer) (fwd rev : Rat) (v : Int),
    s.agenda = .engine :: rest → s.session = some c →
      (c.phase, v) ∈
        [(.stopA, 0), (.spinFwd, (c.params.testSpeed : Int)), (.stopB fwd, 0),
          (.spinRev fwd, -(c.params.testSpeed : Int)), (.stopC fwd rev, 0)] →
      (c.params.testSpeed : Int) ≤ 32767 → s.regs.addrV = true → s.txq = .failed :: a :: q →
      step s =
        .next
          { s with
            agenda := rest
            txq := q
            session := none
            ended := some (.transportFailure, c)
            trace :=
              s.trace ++
                [.wrote .host [0xAA, s.regs.addr, 0xC0, 0x00, lo8 (u16 v), hi8 (u16 v)] .failed,
                  .wrote .host [0xAA, s.regs.addr, 0xC0, 0x00, 0x00, 0x00] a] }

/-- R149: the same for the send of the new offset. That the record returned already holds the new offset is the model's
choice (log entry 28). -/
def Obligations.FailedOffsetSendIsFollowedByAStop : Prop :=
  ∀ (s : State) (rest : List Turn) (c : Session) (diff : Rat) (z : Int) (a : TxAnswer) (q : List TxAnswer),
    s.agenda = .engine :: rest → s.session = some c → c.phase = .adjust diff → s.regs.addrV = true →
      s.txq = .failed :: a :: q → (0 < diff → z = c.zeroOffset.toInt - stepSize |diff|) →
      (¬ 0 < diff → z = c.zeroOffset.toInt + stepSize |diff|) → -32768 ≤ z → z ≤ 32767 →
      step s =
        .next
          { s with
            agenda := rest
            txq := q
            session := none
            ended := some (.transportFailure, { c with zeroOffset := u16 z })
            trace :=
              s.trace ++
                [.wrote .host [0xAA, s.regs.addr, 0xF1, 0x00, lo8 (u16 z), hi8 (u16 z)] .failed,
                  .wrote .host [0xAA, s.regs.addr, 0xC0, 0x00, 0x00, 0x00] a] }

/-- R140, R141, R149: the engine takes the outcome of its SAMPLE, whatever other requests were answered meanwhile: the
mean leads on, and TransportError ends the session after one best-effort stop. That the first such outcome since the
SAMPLE was asked for is the engine's own, and the record a failed session returns, are the model's choices (log entries
34 and 28). -/
def Obligations.WindowOutcomeDecidesTheSession : Prop :=
  ∀ (s : State) (rest : List Turn) (c : Session) (mark : Nat) (fwd : Rat) (others after : List Reply),
    s.agenda = .engine :: rest → s.session = some c →
      (∀ x ∈ others, x ≠ .err .transportError ∧ ∀ r, x ≠ .sampled r) →
      (∀ r, s.replies.drop mark = others ++ .sampled r :: after →
          (c.phase = .awaitFwd mark →
            step s = .next { s with agenda := rest, session := some { c with phase := .stopB r.mean } }) ∧
          (c.phase = .awaitRev mark fwd →
            step s = .next { s with agenda := rest, session := some { c with phase := .stopC fwd r.mean } })) ∧
        (∀ a q, s.replies.drop mark = others ++ .err .transportError :: after →
          c.phase = .awaitFwd mark ∨ c.phase = .awaitRev mark fwd → s.regs.addrV = true → s.txq = a :: q →
            step s =
              .next
                { s with
                  agenda := rest
                  txq := q
                  session := none
                  ended := some (.transportFailure, c)
                  trace := s.trace ++ [.wrote .host [0xAA, s.regs.addr, 0xC0, 0x00, 0x00, 0x00] a] })

/-- R148, R152, R112: a window of no samples is refused by SAMPLE, and the engine leaves after a stop. That this ends the
session, and the record it returns, are the model's reading (log entries 33 and 28). -/
def Obligations.EmptyWindowIsFollowedByAStop : Prop :=
  ∀ (s : State) (rest : List Turn) (c : Session) (fwd : Rat) (a : TxAnswer) (q : List TxAnswer),
    s.agenda = .engine :: rest → s.session = some c → c.phase = .measureFwd ∨ c.phase = .measureRev fwd →
      s.regs.sst = .idle → s.regs.addrV = true → (c.params.winDur * c.params.winFreq).floor < 1 → s.txq = a :: q →
      step s =
        .next
          { s with
            agenda := rest
            txq := q
            regs := { s.regs with lastErr := .emptySample }
            replies := s.replies ++ [.err .emptySample]
            session := none
            ended := some (.operationFailure .emptySample, c)
            trace := s.trace ++ [.wrote .host [0xAA, s.regs.addr, 0xC0, 0x00, 0x00, 0x00] a] }

/-- R136: a step of a session that stays open leaves its engine state or takes it along Idle, ForwardTest, ReverseTest,
Evaluate, AdjustOffset, Idle; and a session is returned Converged from Evaluate alone and MaxIterationsExceeded from
AdjustOffset alone. The last is a reading: R136's own list has MaxIterationsExceeded among the successors of Evaluate,
and R146 and R147 (D43) end the last iteration after its adjustment, which R136's assignment of steps to states, marked
there as the spec's reading, puts in AdjustOffset (log entry 9). -/
def Obligations.EngineStatesFollowTheirOrder : Prop :=
  ∀ (s t : State) (c : Session), s.session = some c → step s = .next t →
    (∀ c', t.session = some c' →
        engineState c'.phase = engineState c.phase ∨
          (engineState c.phase, engineState c'.phase) ∈
            [(.idle, .forwardTest), (.forwardTest, .reverseTest), (.reverseTest, .evaluate),
              (.evaluate, .adjustOffset), (.adjustOffset, .idle)]) ∧
      (t.session = none →
        ∃ e c', t.ended = some (e, c') ∧ (e = .converged → engineState c.phase = .evaluate) ∧
          (e = .maxIterationsExceeded → engineState c.phase = .adjustOffset))

/-- R146, R154: the engine never exceeds its iteration budget. -/
def Obligations.IterationsStayWithinTheBudget : Prop :=
  ∀ s t : State, (∀ c, s.session = some c → 1 ≤ c.iteration ∧ c.iteration ≤ c.params.maxIter) → step s = .next t →
    ∀ c, t.session = some c → 1 ≤ c.iteration ∧ c.iteration ≤ c.params.maxIter
end

