-- ==== Sys2Proof/Laws/State.lean ====
section
/-!
SUPPORT. One lemma per field of State for each named update of it, so that no proof unfolds one.
-/

namespace Sys2Proof.Machine

/-! ### deliver -/

@[simp] theorem deliver_regs (v : Reply) (s : State) : (deliver v s).regs = s.regs := rfl
@[simp] theorem deliver_cfg (v : Reply) (s : State) : (deliver v s).cfg = s.cfg := rfl
@[simp] theorem deliver_inHand (v : Reply) (s : State) : (deliver v s).inHand = s.inHand := rfl
@[simp] theorem deliver_now (v : Reply) (s : State) : (deliver v s).now = s.now := rfl
@[simp] theorem deliver_agenda (v : Reply) (s : State) : (deliver v s).agenda = s.agenda := rfl
@[simp] theorem deliver_txq (v : Reply) (s : State) : (deliver v s).txq = s.txq := rfl
@[simp] theorem deliver_rxq (v : Reply) (s : State) : (deliver v s).rxq = s.rxq := rfl
@[simp] theorem deliver_trace (v : Reply) (s : State) : (deliver v s).trace = s.trace := rfl
@[simp] theorem deliver_replies (v : Reply) (s : State) : (deliver v s).replies = s.replies ++ [v] := rfl
@[simp] theorem deliver_session (v : Reply) (s : State) : (deliver v s).session = s.session := rfl
@[simp] theorem deliver_ended (v : Reply) (s : State) : (deliver v s).ended = s.ended := rfl
@[simp] theorem deliver_draws (v : Reply) (s : State) : (deliver v s).draws = s.draws := rfl

/-! ### continueWith -/

@[simp] theorem continueWith_regs (c : Session) (p : Phase) (s : State) : (continueWith c p s).regs = s.regs := rfl
@[simp] theorem continueWith_cfg (c : Session) (p : Phase) (s : State) : (continueWith c p s).cfg = s.cfg := rfl
@[simp] theorem continueWith_inHand (c : Session) (p : Phase) (s : State) :
    (continueWith c p s).inHand =
      s.inHand := rfl
@[simp] theorem continueWith_now (c : Session) (p : Phase) (s : State) : (continueWith c p s).now = s.now := rfl
@[simp] theorem continueWith_agenda (c : Session) (p : Phase) (s : State) :
    (continueWith c p s).agenda =
      s.agenda := rfl
@[simp] theorem continueWith_txq (c : Session) (p : Phase) (s : State) : (continueWith c p s).txq = s.txq := rfl
@[simp] theorem continueWith_rxq (c : Session) (p : Phase) (s : State) : (continueWith c p s).rxq = s.rxq := rfl
@[simp] theorem continueWith_trace (c : Session) (p : Phase) (s : State) : (continueWith c p s).trace = s.trace := rfl
@[simp] theorem continueWith_replies (c : Session) (p : Phase) (s : State) :
    (continueWith c p s).replies =
      s.replies := rfl
@[simp] theorem continueWith_session (c : Session) (p : Phase) (s : State) :
    (continueWith c p s).session =
      some { c with phase := p } := rfl
@[simp] theorem continueWith_ended (c : Session) (p : Phase) (s : State) : (continueWith c p s).ended = s.ended := rfl
@[simp] theorem continueWith_draws (c : Session) (p : Phase) (s : State) : (continueWith c p s).draws = s.draws := rfl

/-! ### endSession -/

@[simp] theorem endSession_regs (e : Ending) (c : Session) (s : State) : (endSession e c s).regs = s.regs := rfl
@[simp] theorem endSession_cfg (e : Ending) (c : Session) (s : State) : (endSession e c s).cfg = s.cfg := rfl
@[simp] theorem endSession_inHand (e : Ending) (c : Session) (s : State) : (endSession e c s).inHand = s.inHand := rfl
@[simp] theorem endSession_now (e : Ending) (c : Session) (s : State) : (endSession e c s).now = s.now := rfl
@[simp] theorem endSession_agenda (e : Ending) (c : Session) (s : State) : (endSession e c s).agenda = s.agenda := rfl
@[simp] theorem endSession_txq (e : Ending) (c : Session) (s : State) : (endSession e c s).txq = s.txq := rfl
@[simp] theorem endSession_rxq (e : Ending) (c : Session) (s : State) : (endSession e c s).rxq = s.rxq := rfl
@[simp] theorem endSession_trace (e : Ending) (c : Session) (s : State) : (endSession e c s).trace = s.trace := rfl
@[simp] theorem endSession_replies (e : Ending) (c : Session) (s : State) :
    (endSession e c s).replies =
      s.replies := rfl
@[simp] theorem endSession_session (e : Ending) (c : Session) (s : State) : (endSession e c s).session = none := rfl
@[simp] theorem endSession_ended (e : Ending) (c : Session) (s : State) : (endSession e c s).ended = some (e, c) := rfl
@[simp] theorem endSession_draws (e : Ending) (c : Session) (s : State) : (endSession e c s).draws = s.draws := rfl

/-! ### clockMove -/

@[simp] theorem clockMove_regs (s : State) : (clockMove s).regs = s.regs := rfl
@[simp] theorem clockMove_cfg (s : State) : (clockMove s).cfg = s.cfg := rfl
@[simp] theorem clockMove_inHand (s : State) : (clockMove s).inHand = s.inHand := rfl
@[simp] theorem clockMove_agenda (s : State) : (clockMove s).agenda = s.agenda := rfl
@[simp] theorem clockMove_txq (s : State) : (clockMove s).txq = s.txq := rfl
@[simp] theorem clockMove_rxq (s : State) : (clockMove s).rxq = s.rxq := rfl
@[simp] theorem clockMove_trace (s : State) : (clockMove s).trace = s.trace := rfl
@[simp] theorem clockMove_replies (s : State) : (clockMove s).replies = s.replies := rfl
@[simp] theorem clockMove_session (s : State) : (clockMove s).session = s.session := rfl
@[simp] theorem clockMove_ended (s : State) : (clockMove s).ended = s.ended := rfl
@[simp] theorem clockMove_draws (s : State) : (clockMove s).draws = s.draws + 1 := rfl

/-! ### startRun -/

@[simp] theorem startRun_regs (n : Nat) (f : Time) (s : State) :
    (startRun n f s).regs =
      { s.regs with n := BitVec.ofNat 32 n, ivl := 1 / f, acc := 0, errcnt := 0, idx := 0, t0 := s.now, sst := .req } := rfl
@[simp] theorem startRun_cfg (n : Nat) (f : Time) (s : State) : (startRun n f s).cfg = s.cfg := rfl
@[simp] theorem startRun_inHand (n : Nat) (f : Time) (s : State) : (startRun n f s).inHand = s.inHand := rfl
@[simp] theorem startRun_now (n : Nat) (f : Time) (s : State) : (startRun n f s).now = s.now := rfl
@[simp] theorem startRun_agenda (n : Nat) (f : Time) (s : State) : (startRun n f s).agenda = s.agenda := rfl
@[simp] theorem startRun_txq (n : Nat) (f : Time) (s : State) : (startRun n f s).txq = s.txq := rfl
@[simp] theorem startRun_rxq (n : Nat) (f : Time) (s : State) : (startRun n f s).rxq = s.rxq := rfl
@[simp] theorem startRun_trace (n : Nat) (f : Time) (s : State) : (startRun n f s).trace = s.trace := rfl
@[simp] theorem startRun_replies (n : Nat) (f : Time) (s : State) : (startRun n f s).replies = s.replies := rfl
@[simp] theorem startRun_session (n : Nat) (f : Time) (s : State) : (startRun n f s).session = s.session := rfl
@[simp] theorem startRun_ended (n : Nat) (f : Time) (s : State) : (startRun n f s).ended = s.ended := rfl
@[simp] theorem startRun_draws (n : Nat) (f : Time) (s : State) : (startRun n f s).draws = s.draws := rfl

/-! ### resetBlock -/

@[simp] theorem resetBlock_regs (s : State) : (resetBlock s).regs = Regs.reset s.draws := rfl
@[simp] theorem resetBlock_cfg (s : State) : (resetBlock s).cfg = s.cfg := rfl
@[simp] theorem resetBlock_inHand (s : State) : (resetBlock s).inHand = [] := rfl
@[simp] theorem resetBlock_now (s : State) : (resetBlock s).now = s.now := rfl
@[simp] theorem resetBlock_agenda (s : State) : (resetBlock s).agenda = s.agenda := rfl
@[simp] theorem resetBlock_txq (s : State) : (resetBlock s).txq = s.txq := rfl
@[simp] theorem resetBlock_rxq (s : State) : (resetBlock s).rxq = s.rxq := rfl
@[simp] theorem resetBlock_trace (s : State) : (resetBlock s).trace = s.trace := rfl
@[simp] theorem resetBlock_replies (s : State) : (resetBlock s).replies = s.replies := rfl
@[simp] theorem resetBlock_session (s : State) : (resetBlock s).session = s.session := rfl
@[simp] theorem resetBlock_ended (s : State) : (resetBlock s).ended = s.ended := rfl
@[simp] theorem resetBlock_draws (s : State) : (resetBlock s).draws = s.draws + 2 := rfl

/-! ### endRegs: which registers an operation's end writes (R31) -/

section endRegs

variable (k : OpClass) (e : ErrCode) (r : Regs)

@[simp] theorem endRegs_pure : endRegs .pure e r = r := rfl
@[simp] theorem endRegs_load : endRegs .load e r = { r with lastErr := e } := rfl
@[simp] theorem endRegs_sampler : endRegs .sampler e r = { r with lastErr := e, sst := .idle } := rfl
@[simp] theorem endRegs_addr : (endRegs k e r).addr = r.addr := by cases k <;> rfl
@[simp] theorem endRegs_addrV : (endRegs k e r).addrV = r.addrV := by cases k <;> rfl
@[simp] theorem endRegs_n : (endRegs k e r).n = r.n := by cases k <;> rfl
@[simp] theorem endRegs_idx : (endRegs k e r).idx = r.idx := by cases k <;> rfl
@[simp] theorem endRegs_acc : (endRegs k e r).acc = r.acc := by cases k <;> rfl
@[simp] theorem endRegs_errcnt : (endRegs k e r).errcnt = r.errcnt := by cases k <;> rfl
@[simp] theorem endRegs_t0 : (endRegs k e r).t0 = r.t0 := by cases k <;> rfl
@[simp] theorem endRegs_ivl : (endRegs k e r).ivl = r.ivl := by cases k <;> rfl

end endRegs

end Sys2Proof.Machine
end

