-- ==== Sys2Proof/Laws/Ops.lean ====
section
/-!
SUPPORT. For each shared operation, what it can do, said once: outcomes (R166), transport accesses (R39, R40), the clock
(R121, R172), and the rows of the sampler (R116).
-/

namespace Sys2Proof.Machine

/-! ### Outcomes -/

theorem raise_eq (k : OpClass) (e : ErrCode) (s : State) :
    raise k e s =
      { s with regs := if e = .busy then s.regs else endRegs k e s.regs, replies := s.replies ++ [.err e] } := by
  unfold raise
  split <;> rfl

theorem finish_eq (k : OpClass) (v : Reply) (s : State) :
    finish k v s = { s with regs := endRegs k .ok s.regs, replies := s.replies ++ [v] } := rfl

@[simp] theorem raise_pure (e : ErrCode) (s : State) : raise .pure e s = deliver (.err e) s := by
  rw [raise_eq]
  split <;> rfl

@[simp] theorem raise_busy (k : OpClass) (s : State) : raise k .busy s = deliver (.err .busy) s := rfl

@[simp] theorem finish_pure (v : Reply) (s : State) : finish .pure v s = deliver v s := rfl

/-- What a pure operation's result hands to the host. -/
def replyOf (res : Except ErrCode Reply) : Reply :=
  match res with
  | .ok v => v
  | .error e => .err e

@[simp] theorem replyOf_ok (v : Reply) : replyOf (.ok v) = v := rfl
@[simp] theorem replyOf_error (e : ErrCode) : replyOf (.error e) = .err e := rfl

/-- A pure operation changes nothing but what the host has received (R31, R95). -/
theorem answerPure_eq (res : Except ErrCode Reply) (s : State) : answerPure res s = deliver (replyOf res) s := by
  cases res with
  | ok v => rfl
  | error e => exact raise_pure e s

theorem needAddr_valid {α : Type} {r : Regs} (h : r.addrV = true) (k : Except ErrCode α) : needAddr r k = k := by
  simp [needAddr, h]

theorem needAddr_invalid {α : Type} {r : Regs} (h : r.addrV = false) (k : Except ErrCode α) :
    needAddr r k = .error .validationError := by
  simp [needAddr, h]

/-! ### Checks -/

/-- The legal values of byte 3 (R67, R80). -/
theorem padLegal_iff (pos : SubcodePos) (op pad : Byte) :
    padLegal pos op pad = true ↔ pad = 0x00 ∨ (pad = 0x07 ∧ op = 0x08 ∧ pos = .byte3) := by
  simp [padLegal, Config.pad, Config.subRdtlm, Config.opRdtlm, and_assoc]

/-- In range is up to 0x3FFF, included (R105). -/
theorem posOor_iff (raw : Half) : posOor raw = true ↔ 0x3FFF < raw.toNat := by
  unfold posOor
  exact decide_eq_true_iff

theorem inByte_iff (v : Int) : inByte v = true ↔ 0 ≤ v ∧ v ≤ 255 := by simp [inByte]
theorem inS16_iff (v : Int) : inS16 v = true ↔ -32768 ≤ v ∧ v ≤ 32767 := by simp [inS16]
theorem inRep16_iff (v : Int) : inRep16 v = true ↔ -32768 ≤ v ∧ v ≤ 65535 := by simp [inRep16]

/-! ### Transport -/

/-- A write uses one answer and records itself; nothing else of the state but the queue, the trace and the count of
free values changes. -/
theorem txWrite_spec {who : Agent} {b : Bytes} {s s' : State} {a : TxAnswer} (h : txWrite who b s = (a, s')) :
    s' = { s with txq := s.txq.tail, draws := s'.draws, trace := s.trace ++ [.wrote who b a] } ∧
      (s.txq.head? = some a ∨ s.txq = [] ∧ a = Config.freeTx s.draws) := by
  unfold txWrite at h
  cases hq : s.txq with
  | nil =>
    simp only [hq, Prod.mk.injEq] at h
    obtain ⟨rfl, rfl⟩ := h
    simp
  | cons x q =>
    simp only [hq, Prod.mk.injEq] at h
    obtain ⟨rfl, rfl⟩ := h
    simp

/-- A read uses one answer and records itself; nothing else of the state but the queue, the trace and the count of
free values changes. -/
theorem rxRead_spec {who : Agent} {s s' : State} {a : RxAnswer} (h : rxRead who s = (a, s')) :
    s' = { s with rxq := s.rxq.tail, draws := s'.draws, trace := s.trace ++ [.read who s.cfg.readTimeout.val a] } ∧
      (s.rxq.head? = some a ∨ s.rxq = [] ∧ a = Config.freeRx s.draws) := by
  unfold rxRead at h
  cases hq : s.rxq with
  | nil =>
    simp only [hq, Prod.mk.injEq] at h
    obtain ⟨rfl, rfl⟩ := h
    simp
  | cons x q =>
    simp only [hq, Prod.mk.injEq] at h
    obtain ⟨rfl, rfl⟩ := h
    simp

theorem txWrite_fixed {a : TxAnswer} {q : List TxAnswer} (who : Agent) (b : Bytes) {s : State} (h : s.txq = a :: q) :
    txWrite who b s = (a, { s with txq := q, trace := s.trace ++ [.wrote who b a] }) := by
  simp [txWrite, h]

theorem rxRead_fixed {a : RxAnswer} {q : List RxAnswer} (who : Agent) {s : State} (h : s.rxq = a :: q) :
    rxRead who s = (a, { s with rxq := q, trace := s.trace ++ [.read who s.cfg.readTimeout.val a] }) := by
  simp [rxRead, h]

/-! ### Clock -/

/-- Deadlines are rounded up (D14). -/
theorem le_deadline (tick : Option PosTime) (target : Time) : target ≤ deadline tick target := by
  cases tick with
  | none => exact le_refl _
  | some p =>
    have h := Rat.le_ceil (x := target / p.val)
    rw [div_le_iff₀ p.property] at h
    exact h

/-- Without a tick a deadline is the target itself (D14). -/
theorem deadline_continuous (target : Time) : deadline none target = target := rfl

theorem reached_iff (target : Time) (s : State) : reached target s = true ↔ deadline s.cfg.tick target ≤ s.now := by
  simp [reached]

/-- Whoever is let go has a clock that has reached the target (R121). -/
theorem le_now_of_reached {target : Time} {s : State} (h : reached target s = true) : target ≤ s.now :=
  le_trans (le_deadline _ _) ((reached_iff target s).mp h)

/-- The clock does not run backwards of itself (R172). -/
theorem le_clockMove_now (s : State) : s.now ≤ (clockMove s).now := by
  unfold clockMove
  dsimp only
  split
  · assumption
  · exact le_refl _

/-- The clock's own move changes the reading and the count of free values only. -/
theorem clockMove_eq (s : State) : clockMove s = { s with now := (clockMove s).now, draws := s.draws + 1 } := rfl

/-! ### The sampler's rows -/

/-- What an entry check that passes says (R110 to R113). -/
theorem entryCheck_ok {r : Regs} {d f : Time} {n : Nat} (h : entryCheck r d f = .ok n) :
    r.sst = .idle ∧ r.addrV = true ∧ 1 ≤ sampleCount d f ∧ 0 ≤ f ∧ sampleCount d f ≤ Config.countMax ∧
      n = (sampleCount d f).toNat := by
  unfold entryCheck needAddr at h
  split at h
  · cases h
  · rename_i hs
    split at h
    · rename_i hv
      split at h
      · cases h
      · rename_i hn
        split at h
        · cases h
        · rename_i hf
          have hf' := not_or.mp hf
          cases h
          exact ⟨not_not.mp hs, hv, not_lt.mp hn, not_lt.mp hf'.1, not_lt.mp hf'.2, rfl⟩
    · cases h

/-- SAMPLE's first row either starts a run or raises (R116, R110). -/
theorem startSample_cases (d f : Time) (s : State) :
    (∃ n, entryCheck s.regs d f = .ok n ∧ startSample d f s = startRun n f s) ∨
      (∃ e, entryCheck s.regs d f = .error e ∧ startSample d f s = raise .sampler e s) := by
  unfold startSample
  cases h : entryCheck s.regs d f with
  | ok n => exact .inl ⟨n, rfl, rfl⟩
  | error e => exact .inr ⟨e, rfl, rfl⟩

/-- S_REQ ends in S_RESP or ends the run (R117, R126). -/
theorem writeRequest_cases (s : State) :
    ∃ a s', txWrite .block (requestFrame s.cfg.subcodePos s.regs.addr) s = (a, s') ∧
      ((a = .accepted ∧ writeRequest s = { s' with regs := { s'.regs with sst := .resp } }) ∨
        (a = .failed ∧ writeRequest s = raise .sampler .transportError s')) := by
  unfold writeRequest
  rcases h : txWrite .block (requestFrame s.cfg.subcodePos s.regs.addr) s with ⟨a, s'⟩
  refine ⟨a, s', rfl, ?_⟩
  cases a <;> simp

/-- S_RESP ends in S_ACC with the bytes in hand or ends the run (R118, R126). -/
theorem readResponse_cases (s : State) :
    ∃ a s', rxRead .block s = (a, s') ∧
      ((∃ b, a = .bytes b ∧ readResponse s = { s' with inHand := b, regs := { s'.regs with sst := .acc } }) ∨
        (a = .failed ∧ readResponse s = raise .sampler .transportError s')) := by
  unfold readResponse
  rcases h : rxRead .block s with ⟨a, s'⟩
  refine ⟨a, s', rfl, ?_⟩
  cases a <;> simp

/-- S_PACE is held, or the clock has reached the slot's end and the slot advances (R121, R122). -/
theorem paceSlot_cases (s : State) :
    (slotOver s = false ∧ paceSlot s = s) ∨
      (slotOver s = true ∧ slotEnd s.regs.t0 s.regs.ivl s.regs.idx.toNat ≤ s.now ∧ paceSlot s = advanceSlot s) := by
  unfold paceSlot
  cases h : slotOver s with
  | false => exact .inl ⟨rfl, rfl⟩
  | true => exact .inr ⟨rfl, le_now_of_reached h, rfl⟩

/-- The end of a slot starts the next one or ends the run with its result (R123). -/
theorem advanceSlot_cases (s : State) :
    (s.regs.idx + 1 < s.regs.n ∧
        advanceSlot s = { s with regs := { s.regs with idx := s.regs.idx + 1, sst := .req } }) ∨
      (¬ s.regs.idx + 1 < s.regs.n ∧
        advanceSlot s =
          finish .sampler (.sampled (runResult { s.regs with idx := s.regs.idx + 1 }))
            { s with regs := { s.regs with idx := s.regs.idx + 1 } }) := by
  unfold advanceSlot
  dsimp only
  split
  · exact .inl ⟨‹_›, rfl⟩
  · exact .inr ⟨‹_›, rfl⟩

theorem sext16_bounds (u : Half) : -32768 ≤ sext16 u ∧ sext16 u ≤ 32767 := by
  have h1 := BitVec.toInt_lt (x := u)
  have h2 := BitVec.le_toInt (x := u)
  unfold sext16
  omega

theorem parseTelemetry_ok_speed {checkMarker : Bool} {b : Bytes} {t : Telemetry}
    (h : parseTelemetry checkMarker b = .ok t) : ∃ u : Half, t.speed = sext16 u := by
  unfold parseTelemetry at h
  split at h
  · split at h
    · cases h
    · cases h
      exact ⟨_, rfl⟩
  · cases h

/-- A decoded speed is in S16, and a substituted one is 0 (R103, R120). -/
theorem speedOf_bounds (checkMarker : Bool) (b : Bytes) :
    -32768 ≤ speedOf checkMarker b ∧ speedOf checkMarker b ≤ 32767 := by
  unfold speedOf
  split
  · rename_i t h
    obtain ⟨u, hu⟩ := parseTelemetry_ok_speed h
    exact hu ▸ sext16_bounds u
  · decide

end Sys2Proof.Machine
end

