-- ==== Sys2Proof/Laws/PerInstr.lean ====
section
/-!
SUPPORT. Statements made per operation. CodeSelects: a request with an operation's code asks for that operation,
whatever stands on the ports (R73).
-/

namespace Sys2Proof.Laws.CodeSelects

open Sys2Proof Sys2Proof.Machine

/-- Every request with the code of `i` decodes to an operation of the same code. -/
def Statement (i : Instr) : Prop :=
  ∀ r : Request, r.code = hostopCode i → ∃ j, decode r = .ok j ∧ hostopCode j = hostopCode i

/-- A request decodes to `j` if its code is `j`'s and the table's row for the code says so. -/
theorem of_row {r : Request} {c : Byte} (h : r.code = c) {j : Instr} (hd : decode { r with code := c } = .ok j)
    (hc : hostopCode j = c) : ∃ j, decode r = .ok j ∧ hostopCode j = c :=
  ⟨j, by subst h; exact hd, hc⟩

theorem rdtlm : Statement .rdtlm := fun _ h => of_row h (j := .rdtlm) rfl rfl
theorem czero : Statement .czero := fun _ h => of_row h (j := .czero) rfl rfl
theorem setzero (z : Int) : Statement (.setzero z) := fun r h => of_row h (j := .setzero r.x.toInt) rfl rfl
theorem setspd (v : Int) : Statement (.setspd v) := fun r h => of_row h (j := .setspd r.x.toInt) rfl rfl
theorem stop : Statement .stop := fun _ h => of_row h (j := .stop) rfl rfl
theorem clrflt : Statement .clrflt := fun _ h => of_row h (j := .clrflt) rfl rfl
theorem save : Statement .save := fun _ h => of_row h (j := .save) rfl rfl
theorem setid (n : Int) : Statement (.setid n) := fun r h => of_row h (j := .setid r.x.toInt) rfl rfl
theorem setnlim (m : Int) : Statement (.setnlim m) := fun r h => of_row h (j := .setnlim r.x.toInt) rfl rfl
theorem setplim (m : Int) : Statement (.setplim m) := fun r h => of_row h (j := .setplim r.x.toInt) rfl rfl
theorem setpos (x : Int) : Statement (.setpos x) := fun r h => of_row h (j := .setpos r.x.toInt) rfl rfl
theorem rezero : Statement .rezero := fun _ h => of_row h (j := .rezero) rfl rfl
theorem prepz : Statement .prepz := fun _ h => of_row h (j := .prepz) rfl rfl
theorem dectlm (b : Bytes) : Statement (.dectlm b) := fun r h => of_row h (j := .dectlm r.b) rfl rfl
theorem ldaddr (a : Int) : Statement (.ldaddr a) := fun r h => of_row h (j := .ldaddr r.x.toInt) rfl rfl
theorem enc (op p : Int) : Statement (.enc op p) := fun r h => of_row h (j := .enc r.x.toInt r.y.toInt) rfl rfl
theorem dechdr (b : Bytes) : Statement (.dechdr b) := fun r h => of_row h (j := .dechdr r.b) rfl rfl
theorem sample (d f : Time) : Statement (.sample d f) := fun r h => of_row h (j := .sample r.d r.f) rfl rfl

end Sys2Proof.Laws.CodeSelects
end

