-- ==== Sys2Proof/Laws/Step.lean ====
section
/-!
SUPPORT. What an operation, an act of the calibration engine and a step can do, said once: every claim about all
operations or all steps is a case analysis of these.
-/

namespace Sys2Proof.Machine

/-! ### Operations -/

/-- A pure operation hands one outcome over and changes nothing else; LDADDR and SAMPLE are the two others (R13). -/
theorem exec_cases {i : Instr} {s t : State} (h : exec i s = .next t) :
    (isPure i = true ∧ ∃ v, t = deliver v s) ∨ (∃ a, i = .ldaddr a ∧ t = loadAddress a s) ∨
      (∃ d f, i = .sample d f ∧ t = startSample d f s) := by
  cases i
  case ldaddr a =>
    cases h
    exact .inr (.inl ⟨a, rfl, rfl⟩)
  case sample d f =>
    cases h
    exact .inr (.inr ⟨d, f, rfl, rfl⟩)
  all_goals
    cases h
    exact .inl ⟨rfl, _, answerPure_eq _ s⟩

/-- LDADDR refuses during a run, refuses an address out of range, or loads it (R75). -/
theorem loadAddress_cases (a : Int) (s : State) :
    (s.regs.sst ≠ .idle ∧ loadAddress a s = deliver (.err .busy) s) ∨
      (s.regs.sst = .idle ∧ inByte a = false ∧ loadAddress a s = raise .load .validationError s) ∨
      (s.regs.sst = .idle ∧ inByte a = true ∧
        loadAddress a s = finish .load .done { s with regs := { s.regs with addr := byteOf a, addrV := true } }) := by
  unfold loadAddress
  split
  · exact .inl ⟨‹_›, raise_busy _ _⟩
  · rename_i hs
    split
    · exact .inr (.inr ⟨not_not.mp hs, ‹_›, rfl⟩)
    · exact .inr (.inl ⟨not_not.mp hs, by simpa using ‹¬ inByte a = true›, rfl⟩)

/-- The errors of SAMPLE's entry: Busy exactly during a run, otherwise ValidationError or EmptySampleError (R110). -/
theorem entryCheck_error {r : Regs} {d f : Time} {e : ErrCode} (h : entryCheck r d f = .error e) :
    (r.sst ≠ .idle ∧ e = .busy) ∨ (r.sst = .idle ∧ (e = .validationError ∨ e = .emptySample)) := by
  unfold entryCheck needAddr at h
  split at h
  · cases h
    exact .inl ⟨‹_›, rfl⟩
  · refine .inr ⟨not_not.mp ‹_›, ?_⟩
    split at h
    · split at h
      · cases h
        exact .inr rfl
      · split at h <;> cases h
        exact .inl rfl
    · cases h
      exact .inl rfl

/-! ### Agents outside the block -/

/-- An act that leaves the block alone: its registers, arguments and response in hand, with the clock not set back and
the accesses made only added to. -/
structure LeavesBlock (s t : State) : Prop where
  regs : t.regs = s.regs
  cfg : t.cfg = s.cfg
  inHand : t.inHand = s.inHand
  now : s.now ≤ t.now
  agenda : t.agenda = s.agenda
  replies : t.replies = s.replies
  trace : ∃ l, t.trace = s.trace ++ l ∧ l.length ≤ 2 ∧ ∀ x ∈ l, ∃ b a, x = .wrote .host b a

theorem LeavesBlock.of_session {s t : State} (h : LeavesBlock s t) (c : Option Session)
    (e : Option (Ending × Session)) : LeavesBlock s { t with session := c, ended := e } :=
  ⟨h.regs, h.cfg, h.inHand, h.now, h.agenda, h.replies, h.trace⟩

theorem LeavesBlock.refl (s : State) : LeavesBlock s s :=
  ⟨rfl, rfl, rfl, le_refl _, rfl, rfl, [], by simp⟩

theorem leavesBlock_txWrite {b : Bytes} {s s' : State} {a : TxAnswer} (h : txWrite .host b s = (a, s')) :
    LeavesBlock s s' := by
  rw [(txWrite_spec h).1]
  exact ⟨rfl, rfl, rfl, le_refl _, rfl, rfl, _, rfl, by simp, by simp⟩

theorem LeavesBlock.of_trace {s s' t : State} {l : List Access} (h : LeavesBlock s' t) (hr : s'.regs = s.regs)
    (hc : s'.cfg = s.cfg) (hi : s'.inHand = s.inHand) (hn : s.now ≤ s'.now) (ha : s'.agenda = s.agenda)
    (hp : s'.replies = s.replies) (ht : t.trace = s.trace ++ l) (hl : l.length ≤ 2)
    (hh : ∀ x ∈ l, ∃ b a, x = .wrote .host b a) : LeavesBlock s t :=
  ⟨h.regs.trans hr, h.cfg.trans hc, h.inHand.trans hi, le_trans hn h.now, h.agenda.trans ha, h.replies.trans hp,
    l, ht, hl, hh⟩

/-- A session that fails ends, after at most one write of the host's (R149, R152). -/
theorem abandon_cases (e : Ending) (c : Session) (s : State) :
    (abandon e c s).session = none ∧ (abandon e c s).ended = some (e, c) ∧ LeavesBlock s (abandon e c s) ∧
      ∃ l, (abandon e c s).trace = s.trace ++ l ∧ l.length ≤ 1 ∧ ∀ x ∈ l, ∃ b a, x = .wrote .host b a := by
  unfold abandon
  split
  · rename_i b _
    rcases hx : txWrite .host b s with ⟨a, s'⟩
    refine ⟨rfl, rfl, (leavesBlock_txWrite hx).of_session _ _, [.wrote .host b a], ?_, by simp, by simp⟩
    have h := (txWrite_spec hx).1
    simp only [endSession]
    rw [h]
  · exact ⟨rfl, rfl, (LeavesBlock.refl s).of_session _ _, [], by simp [endSession], by simp, by simp⟩

/-- Ending a session after a failed send: at most one more write of the host's. -/
theorem leavesBlock_abandon {b : Bytes} {s s' : State} {a : TxAnswer} (e : Ending) (c : Session)
    (h : txWrite .host b s = (a, s')) : LeavesBlock s (abandon e c s') := by
  have h1 := (txWrite_spec h).1
  obtain ⟨-, -, h2, l, ht, hl, hh⟩ := abandon_cases e c s'
  have hs : s'.trace = s.trace ++ [.wrote .host b a] := by rw [h1]
  refine h2.of_trace (l := .wrote .host b a :: l) (by rw [h1]) (by rw [h1]) (by rw [h1]) (by rw [h1]) (by rw [h1])
    (by rw [h1]) ?_ ?_ ?_
  · rw [ht, hs, List.append_assoc]
    rfl
  · simpa using hl
  · intro x hx
    rcases List.mem_cons.mp hx with rfl | hx
    · exact ⟨_, _, rfl⟩
    · exact hh x hx

/-- What follows an accepted send leaves everything but the session alone. -/
def SessionOnly (f : State → State) : Prop := ∀ x, ∃ u v, f x = { x with session := u, ended := v }

theorem sessionOnly_continueWith (c : Session) (p : Phase) : SessionOnly (continueWith c p) :=
  fun x => ⟨_, x.ended, rfl⟩

theorem sessionOnly_endSession (e : Ending) (c : Session) : SessionOnly (endSession e c) := fun _ => ⟨_, _, rfl⟩

theorem sessionOnly_settle (c : Session) (p : Time → Phase) : SessionOnly (settle c p) := fun x => ⟨_, x.ended, rfl⟩

theorem sessionOnly_closeIteration (c : Session) : SessionOnly (closeIteration c) := by
  intro x
  unfold closeIteration
  split
  · exact sessionOnly_continueWith _ _ x
  · exact sessionOnly_endSession _ _ x

theorem SessionOnly.leaves {f : State → State} (hf : SessionOnly f) {s t : State} (h : LeavesBlock s t) :
    LeavesBlock s (f t) := by
  obtain ⟨u, v, hk⟩ := hf t
  rw [hk]
  exact h.of_session _ _

/-- A send of the engine goes on after an accepted write, and otherwise fails the session (R137, R149, R152). -/
theorem hostSend_cases {f : Except ErrCode Bytes} {c : Session} {andThen : State → State} {s t : State}
    (h : hostSend f c andThen s = .next t) :
    (∃ b s', f = .ok b ∧ txWrite .host b s = (.accepted, s') ∧ t = andThen s') ∨
      (∃ b s', f = .ok b ∧ txWrite .host b s = (.failed, s') ∧ t = abandon .transportFailure c s') ∨
      (∃ e, f = .error e ∧ t = abandon (.operationFailure e) c s) := by
  unfold hostSend at h
  cases f with
  | error e =>
    cases h
    exact .inr (.inr ⟨e, rfl, rfl⟩)
  | ok b =>
    rcases hx : txWrite .host b s with ⟨a, s'⟩
    simp only [hx] at h
    cases a <;> cases h
    · exact .inl ⟨b, s', rfl, hx, rfl⟩
    · exact .inr (.inl ⟨b, s', rfl, hx, rfl⟩)

theorem hostSend_leaves {f : Except ErrCode Bytes} {c : Session} {andThen : State → State} {s t : State}
    (hk : SessionOnly andThen) (h : hostSend f c andThen s = .next t) : LeavesBlock s t := by
  rcases hostSend_cases h with ⟨b, s', -, hx, rfl⟩ | ⟨b, s', -, hx, rfl⟩ | ⟨e, -, rfl⟩
  · exact hk.leaves (leavesBlock_txWrite hx)
  · exact leavesBlock_abandon _ _ hx
  · exact (abandon_cases _ _ _).2.2.1

/-- In a delay the engine is held or goes on (R138). -/
theorem settled_cases (ending : Time) (c : Session) (p : Phase) (s : State) :
    (reached ending s = false ∧ settled ending c p s = s) ∨
      (reached ending s = true ∧ settled ending c p s = continueWith c p s) := by
  unfold settled
  cases reached ending s <;> simp

/-- Waiting for a window the engine stays, goes on with the mean, or fails the session (R140, R149). -/
theorem awaitWindow_cases (mark : Nat) (c : Session) (p : Rat → Phase) (s : State) :
    awaitWindow mark c p s = s ∨ (∃ q, awaitWindow mark c p s = continueWith c (p q) s) ∨
      awaitWindow mark c p s = abandon .transportFailure c s := by
  unfold awaitWindow
  split
  · exact .inl rfl
  · exact .inr (.inl ⟨_, rfl⟩)
  · exact .inr (.inr rfl)

/-- Asking for a window starts a run, or fails the session with the error of SAMPLE's entry (R140, R152). -/
theorem askWindow_cases (c : Session) (p : Nat → Phase) (s : State) :
    askWindow c p s = continueWith c (p s.replies.length) (startSample c.params.winDur c.params.winFreq s) ∨
      ∃ e, entryCheck s.regs c.params.winDur c.params.winFreq = .error e ∧
        askWindow c p s =
          abandon (.operationFailure e) c (startSample c.params.winDur c.params.winFreq s) := by
  unfold askWindow startSample
  cases h : entryCheck s.regs c.params.winDur c.params.winFreq with
  | ok n => exact .inl rfl
  | error e => exact .inr ⟨e, rfl, rfl⟩

theorem askWindow_leaves (c : Session) (p : Nat → Phase) (s : State) :
    LeavesBlock (startSample c.params.winDur c.params.winFreq s) (askWindow c p s) := by
  rcases askWindow_cases c p s with h | ⟨e, -, h⟩ <;> rw [h]
  · exact (sessionOnly_continueWith _ _).leaves (.refl _)
  · exact (abandon_cases _ _ _).2.2.1

/-- Setting the offset sends it, or has no stated consequence when it leaves S16 (R145). -/
theorem adjustOffset_cases {c : Session} {diff : Rat} {s t : State} (h : adjustOffset c diff s = .next t) :
    ∃ c' : Session, c' = { c with zeroOffset := u16 (nextOffset c.zeroOffset.toInt diff) } ∧
      hostSend (signedFrame Config.opSetzero (nextOffset c.zeroOffset.toInt diff) s.regs) c' (closeIteration c') s =
        .next t := by
  unfold adjustOffset at h
  dsimp only at h
  split at h
  · exact ⟨_, rfl, h⟩
  · cases h

theorem evaluateTest_cases (c : Session) (fwd rev : Rat) (s : State) :
    (∃ c' : Session, evaluateTest c fwd rev s = endSession .converged c' s) ∨
      evaluateTest c fwd rev s =
        continueWith { c with lastDifference := some (speedDifference fwd rev) }
          (.adjust (speedDifference fwd rev)) s := by
  unfold evaluateTest
  dsimp only
  split
  · exact .inl ⟨_, rfl⟩
  · exact .inr rfl

/-- One act of the engine leaves the block alone, or asks for a SAMPLE. -/
theorem engineMove_cases {c : Session} {s t : State} (h : engineMove c s = .next t) :
    LeavesBlock s t ∨ LeavesBlock (startSample c.params.winDur c.params.winFreq s) t := by
  have hsettled : ∀ ending p, LeavesBlock s (settled ending c p s) := by
    intro ending p
    rcases settled_cases ending c p s with ⟨-, h⟩ | ⟨-, h⟩ <;> rw [h]
    · exact .refl s
    · exact (sessionOnly_continueWith _ _).leaves (.refl s)
  have hawait : ∀ mark p, LeavesBlock s (awaitWindow mark c p s) := by
    intro mark p
    rcases awaitWindow_cases mark c p s with h | ⟨q, h⟩ | h <;> rw [h]
    · exact .refl s
    · exact (sessionOnly_continueWith _ _).leaves (.refl s)
    · exact (abandon_cases _ _ _).2.2.1
  unfold engineMove at h
  split at h
  case h_6 => cases h; exact .inr (askWindow_leaves _ _ _)
  case h_12 => cases h; exact .inr (askWindow_leaves _ _ _)
  all_goals left
  case h_1 => cases h; exact (sessionOnly_continueWith _ _).leaves (.refl s)
  case h_2 => exact hostSend_leaves (sessionOnly_settle _ _) h
  case h_4 => exact hostSend_leaves (sessionOnly_settle _ _) h
  case h_8 => exact hostSend_leaves (sessionOnly_settle _ _) h
  case h_10 => exact hostSend_leaves (sessionOnly_settle _ _) h
  case h_14 => exact hostSend_leaves (sessionOnly_settle _ _) h
  case h_16 =>
    cases h
    rcases evaluateTest_cases c _ _ s with ⟨c', h⟩ | h <;> rw [h]
    · exact (sessionOnly_endSession _ _).leaves (.refl s)
    · exact (sessionOnly_continueWith _ _).leaves (.refl s)
  case h_17 =>
    obtain ⟨c', -, h⟩ := adjustOffset_cases h
    exact hostSend_leaves (sessionOnly_closeIteration _) h
  case h_7 => cases h; exact hawait _ _
  case h_13 => cases h; exact hawait _ _
  all_goals
    cases h
    exact hsettled _ _

/-! ### Steps -/

/-- The state in which a turn is taken: the turn is off the agenda. -/
def afterTurn (s : State) : State := { s with agenda := s.agenda.tail }

@[simp] theorem afterTurn_regs (s : State) : (afterTurn s).regs = s.regs := rfl
@[simp] theorem afterTurn_cfg (s : State) : (afterTurn s).cfg = s.cfg := rfl
@[simp] theorem afterTurn_inHand (s : State) : (afterTurn s).inHand = s.inHand := rfl
@[simp] theorem afterTurn_now (s : State) : (afterTurn s).now = s.now := rfl
@[simp] theorem afterTurn_txq (s : State) : (afterTurn s).txq = s.txq := rfl
@[simp] theorem afterTurn_rxq (s : State) : (afterTurn s).rxq = s.rxq := rfl
@[simp] theorem afterTurn_trace (s : State) : (afterTurn s).trace = s.trace := rfl
@[simp] theorem afterTurn_replies (s : State) : (afterTurn s).replies = s.replies := rfl
@[simp] theorem afterTurn_session (s : State) : (afterTurn s).session = s.session := rfl

theorem afterTurn_cons {s : State} {x : Turn} {rest : List Turn} (h : s.agenda = x :: rest) :
    ({ s with agenda := rest } : State) = afterTurn s := by
  simp [afterTurn, h]

theorem afterTurn_nil {s : State} (h : s.agenda = []) : afterTurn s = s := by
  cases s
  subst h
  rfl

/-- What a step can be: the operation the host asks for; the block's own row; the clock, the reset input or an access
of the host's; or an act of an agent that leaves the block alone or asks for a SAMPLE. -/
inductive StepCase (s t : State) : Prop where
  | asked (r : Request) (rest : List Turn) (i : Instr) (hs : s.agenda = .ask r :: rest) (hd : decode r = .ok i)
      (h : exec i (afterTurn s) = .next t)
  | unknown (r : Request) (rest : List Turn) (hs : s.agenda = .ask r :: rest)
      (h : t = deliver (.err .validationError) (afterTurn s))
  | block (h : t = blockMove (afterTurn s))
  | clockAlone (hs : s.agenda = []) (h : t = clockMove s)
  | clock (reading : Time) (rest : List Turn) (hs : s.agenda = .clock reading :: rest)
      (h : t = { afterTurn s with now := reading })
  | reset (rest : List Turn) (hs : s.agenda = .reset :: rest) (h : t = resetBlock (afterTurn s))
  | drain (a : RxAnswer) (s' : State) (hx : rxRead .host (afterTurn s) = (a, s')) (h : t = deliver (.drained a) s')
  | register (no : Fin 8) (h : t = deliver (.register (readRegister s.regs no)) (afterTurn s))
  | apart (h : LeavesBlock (afterTurn s) t)
  | window (d f : Time) (h : LeavesBlock (startSample d f (afterTurn s)) t)

theorem engineTurn_case {s t : State} (h : engineTurn (afterTurn s) = .next t) : StepCase s t := by
  unfold engineTurn at h
  split at h
  · cases h
    exact .apart (.refl _)
  · rcases engineMove_cases h with h | h
    · exact .apart h
    · exact .window _ _ h

/-- Every step is one of these. -/
theorem step_case {s t : State} (h : step s = .next t) : StepCase s t := by
  unfold step at h
  split at h
  · rename_i hs
    unfold restTurn at h
    split at h
    · cases h
      exact .clockAlone hs rfl
    · rw [← afterTurn_nil hs] at h
      split at h
      · cases h
        exact .block rfl
      · exact engineTurn_case h
  · rename_i x rest hs
    rw [afterTurn_cons hs] at h
    cases x with
    | ask r =>
      simp only [takeTurn, runRequest] at h
      split at h
      · exact .asked r rest _ hs ‹_› h
      · cases h
        exact .unknown r rest hs (raise_pure _ _)
    | block =>
      cases h
      exact .block rfl
    | clock reading =>
      cases h
      exact .clock reading rest hs rfl
    | reset =>
      cases h
      exact .reset rest hs rfl
    | send b =>
      cases h
      rcases hx : txWrite .host b (afterTurn s) with ⟨a, s'⟩
      exact .apart (leavesBlock_txWrite hx)
    | drain =>
      cases h
      rcases hx : rxRead .host (afterTurn s) with ⟨a, s'⟩
      exact .drain a s' hx (by simp [hostDrain, hx])
    | readReg no =>
      cases h
      exact .register no rfl
    | openSession p z =>
      simp only [takeTurn, openSession] at h
      split at h
      · cases h
      · split at h <;> cases h <;> exact .apart ((LeavesBlock.refl _).of_session _ _)
    | engine => exact engineTurn_case h

end Sys2Proof.Machine
end

