-- ==== Sys2Proof/Tests/Slice0.lean ====
section
/-!
SUPPORT. Tests: ill-formed operations refused, decodings written out from the spec's encodings, the vectors of
spec/95_test_vectors.md (named in each docstring), and for every obligation with hypotheses a state that meets them.
-/

namespace Sys2Proof.Tests

open Sys2Proof Sys2Proof.Machine

/-! ### Ill-formed operations -/

theorem test_setzero_ill_formed : WellFormed (.setzero 2147483648) = false := by decide
theorem test_setspd_ill_formed : WellFormed (.setspd (-2147483649)) = false := by decide
theorem test_setid_ill_formed : WellFormed (.setid 2147483648) = false := by decide
theorem test_setnlim_ill_formed : WellFormed (.setnlim (-2147483649)) = false := by decide
theorem test_setplim_ill_formed : WellFormed (.setplim 2147483648) = false := by decide
theorem test_setpos_ill_formed : WellFormed (.setpos (-2147483649)) = false := by decide
theorem test_ldaddr_ill_formed : WellFormed (.ldaddr 2147483648) = false := by decide
theorem test_enc_ill_formed_opcode : WellFormed (.enc 2147483648 0) = false := by decide
theorem test_enc_ill_formed_parameter : WellFormed (.enc 0 (-2147483649)) = false := by decide

/-! ### Decoding: HOSTOP codes (R73), with -2 on the first port and 5 on the second -/

/-- A request with every port filled. -/
def request (c : Byte) : Request where
  code := c
  x := 0xFFFFFFFE#32
  y := 5#32
  b := [0xAB#8]
  d := 3
  f := 4

theorem test_hostop_ldaddr : decode (request 0b00000000) = .ok (.ldaddr (-2)) := by rfl
theorem test_hostop_enc : decode (request 0b00000001) = .ok (.enc (-2) 5) := by rfl
theorem test_hostop_dechdr : decode (request 0b00000010) = .ok (.dechdr [0xAB]) := by rfl
theorem test_hostop_dectlm : decode (request 0b00000011) = .ok (.dectlm [0xAB]) := by rfl
theorem test_hostop_sample : decode (request 0b00000100) = .ok (.sample 3 4) := by rfl
theorem test_hostop_rdtlm : decode (request 0b00010000) = .ok .rdtlm := by rfl
theorem test_hostop_czero : decode (request 0b00010001) = .ok .czero := by rfl
theorem test_hostop_setzero : decode (request 0b00010010) = .ok (.setzero (-2)) := by rfl
theorem test_hostop_setspd : decode (request 0b00010011) = .ok (.setspd (-2)) := by rfl
theorem test_hostop_stop : decode (request 0b00010100) = .ok .stop := by rfl
theorem test_hostop_clrflt : decode (request 0b00010101) = .ok .clrflt := by rfl
theorem test_hostop_save : decode (request 0b00010110) = .ok .save := by rfl
theorem test_hostop_setid : decode (request 0b00010111) = .ok (.setid (-2)) := by rfl
theorem test_hostop_setnlim : decode (request 0b00011000) = .ok (.setnlim (-2)) := by rfl
theorem test_hostop_setplim : decode (request 0b00011001) = .ok (.setplim (-2)) := by rfl
theorem test_hostop_setpos : decode (request 0b00011010) = .ok (.setpos (-2)) := by rfl
theorem test_hostop_rezero : decode (request 0b00011011) = .ok .rezero := by rfl
theorem test_hostop_prepz : decode (request 0b00011100) = .ok .prepz := by rfl
theorem test_hostop_gap : decode (request 0b00000101) = .error (.unknownCode 5) := by rfl
theorem test_hostop_above : decode (request 0b00011101) = .error (.unknownCode 29) := by rfl

/-! ### Decoding: command frames and responses (R54 to R57, R62, 95 section 2.9) -/

theorem test_frame_setspd :
    decodeTableWord 48 0b10101010_00000001_11000000_00000000_10101000_01100001 = some (.setspd 25000) := by decide
theorem test_frame_setzero :
    decodeTableWord 48 0b10101010_00010000_11110001_00000000_11010100_11111110 = some (.setzero (-300)) := by decide
theorem test_frame_rdtlm :
    decodeTableWord 48 0b10101010_00000001_00001000_00000111_00000000_00000000 = some .rdtlm := by decide
theorem test_frame_czero : decodeTableWord 48 0xAA010B000000 = some .czero := by decide
theorem test_frame_save : decodeTableWord 48 0xAA01B0000000 = some .save := by decide
theorem test_frame_setid : decodeTableWord 48 0xAA01F000FF00 = some (.setid 255) := by decide
theorem test_frame_setnlim : decodeTableWord 48 0xAA01C80060F0 = some (.setnlim (-4000)) := by decide
theorem test_frame_setplim : decodeTableWord 48 0xAA01C900A00F = some (.setplim 4000) := by decide
theorem test_frame_setpos : decodeTableWord 48 0xAA01C20001E0 = some (.setpos (-8191)) := by decide
theorem test_frame_rezero : decodeTableWord 48 0xAA01C7000000 = some .rezero := by decide
theorem test_frame_prepz : decodeTableWord 48 0xAA01F2000000 = some .prepz := by decide
theorem test_frame_reserved : decodeTableWord 48 0xAA01C1000000 = none := by decide
theorem test_frame_illegal_pad : decodeTableWord 48 0xAA01C0070000 = none := by decide
theorem test_response_dectlm :
    decodeTableWord 56 0b10101011_00110100_00010010_10101000_01100001_00101100_00000001 =
      some (.dectlm [0xAB, 0x34, 0x12, 0xA8, 0x61, 0x2C, 0x01]) := by decide
theorem test_response_marker : decodeTableWord 56 0xAC3412A8612C01 = none := by decide

/-! ### States -/

/-- After reset with an address loaded. -/
def loaded (a : Byte) : State :=
  { State.reset with regs := { State.reset.regs with addr := a, addrV := true } }

/-- Address 1, in slot `i` of a run of `n`, started at reading 10 with a quarter between slots; the clock reads 10. -/
def running (st : SamplerState) (n i : BitVec 32) : State :=
  { loaded 1 with
    now := 10
    regs := { (loaded 1).regs with n := n, idx := i, t0 := 10, ivl := 1 / 4, sst := st } }

/-- The state with one turn to come. -/
def turn (t : Turn) (s : State) : State := { s with agenda := [t] }

theorem turn_agenda (t : Turn) (s : State) : (turn t s).agenda = [t] := rfl
theorem turn_regs (t : Turn) (s : State) : (turn t s).regs = s.regs := rfl

/-- A response that carries a speed (95 section 2.7). -/
def speedResponse (lo hi : Byte) : Bytes := [0xAB, 0x00, 0x01, lo, hi, 0x05, 0x00]

/-- The state an answer leads to, or else the state it came from. -/
def after (a : Answer) (s : State) : State :=
  match a with
  | .next t => t
  | .fault _ => s
  | .refused _ => s

/-- What the host received in a step or operation from a state with no reply before. -/
def answered (a : Answer) : List Reply := (after a State.reset).replies

/-! ### Operations (95 sections 2.1 to 2.6) -/

theorem test_ldaddr_255 :
    (after (exec (.ldaddr 255) State.reset) State.reset).regs.addr = 255 ∧
      (after (exec (.ldaddr 255) State.reset) State.reset).regs.addrV = true := by decide
theorem test_ldaddr_256 :
    (after (exec (.ldaddr 256) (loaded 5)) State.reset).regs.addr = 5 ∧
      (after (exec (.ldaddr 256) (loaded 5)) State.reset).regs.lastErr = .validationError := by decide
theorem test_enc_negative : answered (exec (.enc 0xC0 (-25000)) (loaded 1)) = [.frame [0xAA, 1, 0xC0, 0, 0x58, 0x9E]] := by
  rfl
theorem test_enc_reserved_opcode :
    answered (exec (.enc 0xFF 0x1234) (loaded 255)) = [.frame [0xAA, 255, 0xFF, 0, 0x34, 0x12]] := by rfl
theorem test_dechdr_negative :
    answered (exec (.dechdr [0xAA, 0x10, 0xF1, 0, 0xD4, 0xFE]) State.reset) =
      [.header { addr := 16, opcode := 0xF1, sub := 0, paramU := 65236, paramS := -300 }] := by rfl
theorem test_dechdr_illegal_pad :
    answered (exec (.dechdr [0xAA, 1, 0xC0, 7, 0, 0]) State.reset) = [.err .badFrame] := by rfl
theorem test_dectlm_fields :
    answered (exec (.dectlm [0xAB, 0x34, 0x12, 0xA8, 0x61, 0x2C, 0x01]) State.reset) =
      [.telemetry { position := 11723, speed := 25000, current := 300, posOor := false }] := by rfl
theorem test_dectlm_length_before_marker :
    answered (exec (.dectlm [0xAC, 0x01]) State.reset) = [.err .truncated] := by rfl
theorem test_rdtlm : answered (exec .rdtlm (loaded 0x10)) = [.frame [0xAA, 0x10, 0x08, 0x07, 0, 0]] := by rfl
theorem test_rdtlm_byte5 :
    answered (exec .rdtlm { loaded 1 with cfg := { Params.default with subcodePos := .byte5 } }) =
      [.frame [0xAA, 1, 0x08, 0, 0, 0x07]] := by rfl
theorem test_czero : answered (exec .czero (loaded 1)) = [.frame [0xAA, 1, 0x0B, 0, 0, 0]] := by rfl
theorem test_setzero : answered (exec (.setzero (-29)) (loaded 1)) = [.frame [0xAA, 1, 0xF1, 0, 0xE3, 0xFF]] := by rfl
theorem test_setspd : answered (exec (.setspd (-32768)) (loaded 1)) = [.frame [0xAA, 1, 0xC0, 0, 0, 0x80]] := by rfl
theorem test_setspd_65535 : answered (exec (.setspd 65535) (loaded 1)) = [.err .validationError] := by rfl
theorem test_stop : answered (exec .stop (loaded 1)) = [.frame [0xAA, 1, 0xC0, 0, 0, 0]] := by rfl
theorem test_clrflt : answered (exec .clrflt (loaded 1)) = [.frame [0xAA, 1, 0xC0, 0, 0, 0]] := by rfl
theorem test_save : answered (exec .save (loaded 1)) = [.frame [0xAA, 1, 0xB0, 0, 0, 0]] := by rfl
theorem test_setid : answered (exec (.setid 255) (loaded 1)) = [.frame [0xAA, 1, 0xF0, 0, 0xFF, 0]] := by rfl
theorem test_setid_256 : answered (exec (.setid 256) (loaded 1)) = [.err .validationError] := by rfl
theorem test_setnlim : answered (exec (.setnlim (-4000)) (loaded 1)) = [.frame [0xAA, 1, 0xC8, 0, 0x60, 0xF0]] := by
  rfl
theorem test_setplim : answered (exec (.setplim 4000) (loaded 1)) = [.frame [0xAA, 1, 0xC9, 0, 0xA0, 0x0F]] := by rfl
theorem test_setpos_8192 :
    answered (exec (.setpos 8192) (loaded 1)) = [.jogFrame [0xAA, 1, 0xC2, 0, 0xFF, 0x1F] true] := by rfl
theorem test_setpos_lower :
    answered (exec (.setpos (-8191)) (loaded 1)) = [.jogFrame [0xAA, 1, 0xC2, 0, 0x01, 0xE0] false] := by rfl
theorem test_rezero : answered (exec .rezero (loaded 1)) = [.frame [0xAA, 1, 0xC7, 0, 0, 0]] := by rfl
theorem test_prepz : answered (exec .prepz (loaded 1)) = [.frame [0xAA, 1, 0xF2, 0, 0, 0]] := by rfl
theorem test_builder_without_address : answered (exec .stop State.reset) = [.err .validationError] := by rfl
theorem test_sample_counts :
    (after (exec (.sample (29 / 100) 100) (loaded 1)) State.reset).regs.n = 29 := by decide +kernel
theorem test_sample_negative_frequency : answered (exec (.sample (-1) (-4)) (loaded 1)) = [.err .validationError] := by
  decide +kernel

/-! ### The sampler's rows and the engine (95 sections 2.7, 2.8, programs P2 and P3) -/

theorem test_accumulate_marker :
    (accumulate { running .acc 2 1 with inHand := [0xAC, 0x00, 0x01, 0x64, 0x00, 0x05, 0x00] }).regs.errcnt = 1 := by
  decide
theorem test_accumulate_negative :
    (accumulate { running .acc 2 1 with inHand := speedResponse 0x9C 0xFF }).regs.acc = -100 := by decide
theorem test_pace_late_does_not_wait :
    (after (step (turn .block { running .pace 4 1 with now := 11 })) State.reset).regs.sst = .req := by decide +kernel
theorem test_pace_holds :
    (after (step (turn .block (running .pace 4 1))) State.reset).regs.sst = .pace := by decide +kernel
theorem test_mean_is_exact :
    (runResult { State.reset.regs with n := 2, acc := 3 }).mean = 3 / 2 := by decide +kernel
theorem test_status_word : statusWord (running .resp 4 2).regs = 0x10A := by decide
theorem test_step_60 : nextOffset 0 60 = -20 := by decide +kernel
theorem test_step_50 : nextOffset 0 50 = -15 := by decide +kernel
theorem test_step_minus_15 : nextOffset 0 (-15) = 2 := by decide +kernel

/-- R48, R128: an answer to another request is no outcome of the run. -/
theorem test_window_passes_over_busy :
    windowOutcome [.err .busy, .frame [], .err .transportError] = some .lost := by rfl

/-- R138, with a tick of 1/2 (D14): a delay that ends at 41/4 holds at 10.3. -/
theorem test_delay_is_held_to_the_next_tick :
    reached (41 / 4) { loaded 1 with now := 103 / 10, cfg := { Params.default with tick := some ⟨1 / 2, by norm_num⟩ } } =
      false := by decide +kernel

/-! ### Witnesses: states that meet the hypotheses of each obligation, clause by clause, at the ends of its ranges -/

theorem witness_primitives_lower : (-32768 : Int) ≤ -32768 ∧ (-32768 : Int) ≤ 32767 := by decide
theorem witness_primitives_upper : (-32768 : Int) ≤ 32767 ∧ (32767 : Int) ≤ 32767 := by decide
theorem witness_decode_of_encode : WellFormed (.enc 2147483647 (-2147483648)) = true := by decide
theorem witness_decoded_operations_fit : decode (request 0x19) = .ok (.setplim (-2)) := by rfl

/-- Every listed code has a request (the witnesses of the eighteen clauses). -/
theorem witness_codes (c : Byte) : (request c).code = c := rfl
theorem witness_unknown_code_5 :
    4 < (request 5).code.toNat ∧ (request 5).code.toNat < 16 ∧ (turn (.ask (request 5)) (loaded 1)).agenda = [.ask (request 5)] :=
  by decide +kernel
theorem witness_unknown_code_15 : 4 < (request 15).code.toNat ∧ (request 15).code.toNat < 16 := by decide
theorem witness_unknown_code_29 : 28 < (request 29).code.toNat := by decide
theorem witness_unknown_code_255 : 28 < (request 255).code.toNat := by decide

theorem witness_built_frames_select :
    ∃ t v b, isBuilder (.setspd (-25000)) = true ∧ exec (.setspd (-25000)) (loaded 1) = .next t ∧
      t.replies = (loaded 1).replies ++ [v] ∧ replyFrame v = some b :=
  ⟨_, .frame [0xAA, 1, 0xC0, 0, 0x58, 0x9E], _, rfl, rfl, rfl, rfl⟩
theorem witness_built_frames_select_rdtlm :
    ∃ t v b, isBuilder .rdtlm = true ∧ (loaded 1).cfg.subcodePos = .byte3 ∧ exec .rdtlm (loaded 1) = .next t ∧
      t.replies = (loaded 1).replies ++ [v] ∧ replyFrame v = some b :=
  ⟨_, .frame [0xAA, 1, 0x08, 7, 0, 0], _, rfl, rfl, rfl, rfl, rfl⟩
theorem witness_built_frames_accepted :
    ∃ t v b, exec (.setpos 9000) (loaded 1) = .next t ∧ t.replies = (loaded 1).replies ++ [v] ∧ replyFrame v = some b :=
  ⟨_, .jogFrame [0xAA, 1, 0xC2, 0, 0xFF, 0x1F] true, _, rfl, rfl, rfl⟩

theorem witness_ldaddr_busy : (running .pace 2 1).regs.sst ≠ .idle := by decide
theorem witness_ldaddr_below : State.reset.regs.sst = .idle ∧ (-1 : Int) < 0 := ⟨rfl, by decide⟩
theorem witness_ldaddr_above : State.reset.regs.sst = .idle ∧ (255 : Int) < 256 := ⟨rfl, by decide⟩
theorem witness_ldaddr_in_range : State.reset.regs.sst = .idle ∧ (0 : Int) ≤ 0 ∧ (0 : Int) ≤ 255 := ⟨rfl, by decide⟩
theorem witness_ldaddr_at_255 : State.reset.regs.sst = .idle ∧ (0 : Int) ≤ 255 ∧ (255 : Int) ≤ 255 := ⟨rfl, by decide⟩

theorem witness_enc_without_address : State.reset.regs.addrV = false := rfl
theorem witness_enc_refused_at_the_bounds :
    (-1 : Int) < 0 ∧ (255 : Int) < 256 ∧ (-32769 : Int) < -32768 ∧ (65535 : Int) < 65536 := by decide
theorem witness_enc_lower :
    (loaded 1).regs.addrV = true ∧ (0 : Int) ≤ 0 ∧ (0 : Int) ≤ 255 ∧ (-32768 : Int) ≤ -32768 ∧ (-32768 : Int) ≤ 65535 :=
  ⟨rfl, by decide⟩
theorem witness_enc_upper :
    (loaded 1).regs.addrV = true ∧ (0 : Int) ≤ 255 ∧ (255 : Int) ≤ 255 ∧ (-32768 : Int) ≤ 65535 ∧ (65535 : Int) ≤ 65535 :=
  ⟨rfl, by decide⟩

/-- EncFramesAreInjectiveInTheImage at -1 and 65535, one image. -/
theorem witness_enc_one_image :
    (loaded 1).regs.addrV = true ∧ (0xC0 : Int) ≤ 255 ∧ (-32768 : Int) ≤ -1 ∧ (65535 : Int) ≤ 65535 ∧
      ((-1 : Int) - 65535) % 65536 = 0 := ⟨rfl, by decide⟩

theorem witness_dechdr_pad : padLegal .byte3 0xC0 0x00 = true := by decide
theorem witness_dechdr_subcode : (loaded 1).cfg.subcodePos = .byte3 := rfl
theorem witness_dechdr_rejected :
    ¬ ∃ a op pad lo hi : Byte, ([0xAB, 1, 0xC0, 0, 0, 0] : Bytes) = [0xAA, a, op, pad, lo, hi] ∧
        (pad = 0x00 ∨ (pad = 0x07 ∧ op = 0x08 ∧ (loaded 1).cfg.subcodePos = .byte3)) := by
  rintro ⟨a, op, pad, lo, hi, h, -⟩
  simp at h
theorem witness_dechdr_round_trip :
    (loaded 1).regs.addrV = true ∧ (0 : Int) ≤ 0xC0 ∧ (0xC0 : Int) ≤ 255 ∧ (-32768 : Int) ≤ -1 ∧ (-1 : Int) ≤ 32767 :=
  ⟨rfl, by decide⟩
theorem witness_dechdr_round_trip_upper :
    (loaded 1).regs.addrV = true ∧ (0 : Int) ≤ 65535 ∧ (65535 : Int) ≤ 65535 := ⟨rfl, by decide⟩

theorem witness_dectlm_short : ([0xAB, 1, 2, 3, 4, 5] : Bytes).length < 7 := by decide
theorem witness_dectlm_marker : (loaded 1).cfg.checkMarker = true ∧ (0xAC#8 : Byte) ≠ 0xAB#8 := ⟨rfl, by decide⟩
theorem witness_dectlm_unchecked :
    ({ loaded 1 with cfg := { Params.default with checkMarker := false } } : State).cfg.checkMarker = false := rfl
theorem witness_dectlm_last_position : (0xFF#8).toNat + 256 * (0x3F#8).toNat ≤ 0x3FFF := by decide
theorem witness_dectlm_first_free_position : 0x3FFF < (0x00#8).toNat + 256 * (0x40#8).toNat := by decide
theorem witness_dectlm_long : 7 < ([0xAB, 0, 0, 0, 0, 0, 0, 0] : Bytes).length := by decide
theorem witness_position_ends : (0x0000#16 : Half).toNat ≤ 0x3FFF ∧ (0x3FFF#16 : Half).toNat ≤ 0x3FFF := by decide

theorem witness_plain_builders :
    (Instr.prepz, (0xF2 : Byte)) ∈
        ([(.czero, 0x0B), (.stop, 0xC0), (.clrflt, 0xC0), (.save, 0xB0), (.rezero, 0xC7), (.prepz, 0xF2)] :
          List (Instr × Byte)) ∧ (loaded 1).regs.addrV = true ∧ State.reset.regs.addrV = false := by
  exact ⟨by simp, rfl, rfl⟩
theorem witness_signed_builders :
    (Instr.setplim 32767, (0xC9 : Byte)) ∈
        ([(.setzero 32767, 0xF1), (.setspd 32767, 0xC0), (.setnlim 32767, 0xC8), (.setplim 32767, 0xC9)] :
          List (Instr × Byte)) ∧ (loaded 1).regs.addrV = true ∧ (-32768 : Int) ≤ 32767 := by
  exact ⟨by simp, rfl, by decide⟩
theorem witness_signed_builders_refused : (32767 : Int) < 32768 ∧ (-32769 : Int) < -32768 := by decide
theorem witness_setid :
    (loaded 1).regs.addrV = true ∧ (0 : Int) ≤ 255 ∧ (255 : Int) < 256 ∧ (-1 : Int) < 0 := ⟨rfl, by decide⟩

/-- SetposClamps: the clamped operand of -8192, 8192, -8191 and 8191. -/
theorem witness_setpos (c : Int → Int) (hc : c = fun x => if x < -8191 then -8191 else if 8191 < x then 8191 else x) :
    c (-8192) = -8191 ∧ c 8192 = 8191 ∧ c (-8191) = -8191 ∧ c 8191 = 8191 := by
  subst hc
  decide
theorem witness_rdtlm : State.reset.regs.addrV = false ∧ (loaded 1).regs.addrV = true := ⟨rfl, rfl⟩

theorem witness_pure : isPure .prepz = true := rfl
theorem witness_pure_same_address :
    (running .pace 2 1).regs.addr = (loaded 1).regs.addr ∧ (running .pace 2 1).regs.addrV = (loaded 1).regs.addrV ∧
      (running .pace 2 1).cfg = (loaded 1).cfg := ⟨rfl, rfl, rfl⟩
theorem witness_write_matrix :
    (∃ t, exec .stop (loaded 1) = .next t) ∧ (∀ a, Instr.stop ≠ .ldaddr a) ∧ (∀ d f, Instr.stop ≠ .sample d f) ∧
      isPure .stop = true := ⟨⟨_, rfl⟩, by simp, by simp, rfl⟩
theorem witness_refused_operation :
    ∃ t, exec .stop State.reset = .next t ∧ t.replies = State.reset.replies ++ [.err .validationError] := ⟨_, rfl, rfl⟩
theorem witness_engine_free : engineFree (turn .block (loaded 1)) := ⟨rfl, by simp [turn]⟩
theorem witness_address_kept : ∃ t, step (turn .block (loaded 1)) = .next t := ⟨_, rfl⟩
theorem witness_address_loaded :
    ∃ t, step (turn (.ask (encode (.ldaddr 255))) State.reset) = .next t ∧ t.regs.addr = 255 := ⟨_, rfl, by decide⟩

/-! Witnesses for the sampler -/

theorem witness_sample_busy : (running .acc 2 1).regs.sst ≠ .idle := by decide
theorem witness_sample_without_address : State.reset.regs.sst = .idle ∧ State.reset.regs.addrV = false := ⟨rfl, rfl⟩
theorem witness_sample_empty :
    (loaded 1).regs.sst = .idle ∧ (loaded 1).regs.addrV = true ∧ ((1 : Rat) * (9 / 10)).floor < 1 :=
  ⟨rfl, rfl, by decide +kernel⟩
theorem witness_sample_negative_frequency :
    (loaded 1).regs.sst = .idle ∧ (loaded 1).regs.addrV = true ∧ 1 ≤ ((-1 : Rat) * -1).floor ∧ (-1 : Rat) < 0 :=
  ⟨rfl, rfl, by decide +kernel⟩
theorem witness_sample_too_many :
    (loaded 1).regs.sst = .idle ∧ (loaded 1).regs.addrV = true ∧ 1 ≤ ((4294967296 : Rat) * 1).floor ∧
      4294967295 < ((4294967296 : Rat) * 1).floor := ⟨rfl, rfl, by decide +kernel⟩
theorem witness_sample_smallest :
    (loaded 1).regs.sst = .idle ∧ (loaded 1).regs.addrV = true ∧ 1 ≤ ((1 : Rat) * 1).floor ∧
      ((1 : Rat) * 1).floor ≤ 4294967295 ∧ (0 : Rat) ≤ 1 := ⟨rfl, rfl, by decide +kernel⟩
theorem witness_sample_largest :
    (loaded 1).regs.sst = .idle ∧ (loaded 1).regs.addrV = true ∧ 1 ≤ ((4294967295 : Rat) * 1).floor ∧
      ((4294967295 : Rat) * 1).floor ≤ 4294967295 ∧ (0 : Rat) ≤ 1 := ⟨rfl, rfl, by decide +kernel⟩
theorem witness_scheduled_run :
    ∃ t, exec (.sample 1 4) (loaded 1) = .next t ∧ t.regs.sst = .req ∧ (loaded 1).regs.sst = .idle :=
  ⟨_, rfl, by decide +kernel, rfl⟩
theorem witness_request_row_accepted :
    (turn .block { running .req 2 0 with txq := [.accepted] }).regs.sst = .req ∧
      (turn .block { running .req 2 0 with txq := [.accepted] }).agenda = [.block] := ⟨rfl, rfl⟩
theorem witness_request_row_failed :
    (after (step (turn .block { running .req 2 0 with txq := [.failed] })) State.reset).regs.lastErr =
      .transportError := by decide
theorem witness_response_row_bytes :
    (turn .block { running .resp 2 0 with rxq := [.bytes []] }).regs.sst = .resp ∧
      (after (step (turn .block { running .resp 2 0 with rxq := [.bytes []] })) State.reset).regs.sst = .acc :=
  ⟨rfl, by decide⟩
theorem witness_response_row_failed :
    (after (step (turn .block { running .resp 2 0 with rxq := [.failed] })) State.reset).regs.sst = .idle := by decide
theorem witness_transport_error :
    (turn .block { running .req 2 0 with txq := [.failed] }).agenda = [.block] ∧
      (turn .block { running .req 2 0 with txq := [.failed] }).regs.sst = .req ∧
      (turn .block { running .req 2 0 with txq := [.failed] }).txq = [.failed] ∧
      (turn .block { running .resp 2 1 with rxq := [.failed] }).regs.sst = .resp ∧
      (turn .block { running .resp 2 1 with rxq := [.failed] }).rxq = [.failed] := ⟨rfl, rfl, rfl, rfl, rfl⟩
theorem witness_accumulate_row_decoded :
    ∃ r, exec (.dectlm (speedResponse 10 0)) { running .acc 2 0 with inHand := speedResponse 10 0 } =
      .next { running .acc 2 0 with inHand := speedResponse 10 0, replies := [.telemetry r] } := ⟨_, rfl⟩
theorem witness_accumulate_row_lost :
    exec (.dectlm []) (running .acc 2 0) = .next { running .acc 2 0 with replies := [.err .truncated] } := rfl
theorem witness_deadline : (some ⟨1 / 2, by norm_num⟩ : Option PosTime) = some ⟨1 / 2, by norm_num⟩ := rfl

/-- The block's turn in S_PACE in slot `i` of two, with the clock at a reading. -/
def pacing (i : BitVec 32) (reading : Time) : State := turn .block { running .pace 2 i with now := reading }

/-- The scheduled end of the slot, from R121. -/
theorem witness_pace_row_ends :
    deadline none (10 + (((0#32).toNat : Rat) + 1) * (1 / 4)) = 41 / 4 ∧
      deadline none (10 + (((1#32).toNat : Rat) + 1) * (1 / 4)) = 21 / 2 := by decide +kernel
theorem witness_pace_row_held :
    (pacing 0 10).regs.sst = .pace ∧ (pacing 0 10).agenda = [.block] ∧ (pacing 0 10).now < 41 / 4 :=
  ⟨rfl, rfl, by decide +kernel⟩
theorem witness_pace_row_next :
    (pacing 0 (41 / 4)).regs.sst = .pace ∧ (pacing 0 (41 / 4)).agenda = [.block] ∧
      41 / 4 ≤ (pacing 0 (41 / 4)).now ∧ (pacing 0 (41 / 4)).regs.idx + 1 < (pacing 0 (41 / 4)).regs.n :=
  ⟨rfl, rfl, by decide +kernel, by decide⟩
theorem witness_pace_row_last :
    (pacing 1 (21 / 2)).regs.sst = .pace ∧ (pacing 1 (21 / 2)).agenda = [.block] ∧
      21 / 2 ≤ (pacing 1 (21 / 2)).now ∧ ¬ (pacing 1 (21 / 2)).regs.idx + 1 < (pacing 1 (21 / 2)).regs.n :=
  ⟨rfl, rfl, by decide +kernel, by decide⟩

/-- Two readings, one lost, with the turns of a run to come. -/
def window (turns : List Turn) : State :=
  { loaded 1 with
    now := 10
    txq := [.accepted, .accepted]
    rxq := [.bytes (speedResponse 10 0), .bytes []]
    agenda := turns }

/-- Turns that reach the end of the run: a clock that is late, then set back, then late again. -/
def unevenTurns : List Turn := .clock 12 :: .clock 11 :: List.replicate 4 .block ++ .clock 13 :: List.replicate 4 .block

theorem witness_sample_returns :
    (window unevenTurns).regs.sst = .idle ∧ (window unevenTurns).regs.addrV = true ∧ (0 : Rat) ≤ 4 ∧
      ((1 / 2 : Rat) * 4).floor = 2 ∧
      (∀ x ∈ (window unevenTurns).agenda, x = .block ∨ ∃ reading, x = .clock reading) ∧
      (window unevenTurns).txq = List.replicate 2 .accepted ++ [] ∧
      (window unevenTurns).rxq = [speedResponse 10 0, []].map .bytes ++ [] :=
  ⟨rfl, rfl, by decide +kernel, by decide +kernel, by simp [window, unevenTurns], rfl, rfl⟩

/-- RunsEndWhenTheClockAdvances and the clause of SampleReturnsTheMeanOfItsReadings for a run that ends: the slots of
the window end at 41/4 and 21/2. -/
theorem witness_run_ends :
    [(41 / 4 : Rat), 11].length = 2 ∧ (window (pacedTurns [41 / 4, 11])).agenda = pacedTurns [41 / 4, 11] ∧
      (∀ x ∈ pacedTurns [41 / 4, 11], x = .block ∨ ∃ reading, x = .clock reading) :=
  ⟨rfl, rfl, by simp [pacedTurns]⟩
theorem witness_clock_reaches : ClockReaches none 10 (1 / 4) [41 / 4, 11] := by
  intro k r h
  match k, h with
  | 0, h =>
    cases h
    decide +kernel
  | 1, h =>
    cases h
    decide +kernel

theorem witness_run_ended_by_failure :
    ∃ t, step (turn .block { running .req 2 0 with txq := [.failed] }) = .next t ∧ t.regs.sst = .idle := ⟨_, rfl, rfl⟩
theorem witness_run_ended_by_reset :
    ∃ t, step (turn .reset (running .resp 2 0)) = .next t ∧ t.regs.sst = .idle := ⟨_, rfl, rfl⟩
theorem witness_run_ended_by_result :
    ∃ t, step (turn .block { running .pace 2 1 with now := 11 }) = .next t ∧ t.regs.sst = .idle :=
  ⟨_, rfl, by decide +kernel⟩
theorem witness_block_write :
    (after (step (turn .block { running .req 2 0 with txq := [.accepted] })) State.reset).trace =
      [.wrote .block [0xAA, 1, 0x08, 7, 0, 0] .accepted] := by rfl
theorem witness_block_read :
    ∃ t, step (turn .block { running .resp 2 0 with rxq := [.failed] }) = .next t ∧
      t.trace = [.read .block Config.readTimeout.val .failed] := ⟨_, rfl, rfl⟩

/-! Witnesses for the invariants -/

theorem witness_sound : (running .req 2 1).regs.Sound where
  idx_le := by decide
  running := fun _ => ⟨by decide, rfl, by decide +kernel⟩
  errcnt_le := by decide
  acc_lower := by decide
  acc_upper := by decide
  lastErr_storable := rfl
  addr_zero := fun h => by cases h

theorem witness_on_schedule : OnSchedule (turn (.clock 12) { running .req 2 1 with now := 11 }) :=
  fun _ => by decide +kernel

theorem witness_clock_forward : ClockForward (turn (.clock 12) { running .req 2 1 with now := 11 }) := by
  intro reading rest h
  cases h
  decide +kernel

theorem witness_step_of_a_sound_state :
    ∃ t, step (turn (.clock 12) { running .req 2 1 with now := 11 }) = .next t := ⟨_, rfl⟩

/-! Witnesses for reset, requests and register reads -/

theorem witness_reset_turn : (turn .reset (running .acc 2 1)).agenda = [.reset] := rfl
theorem witness_step_runs :
    (turn (.ask (request 0x19)) (loaded 1)).agenda = [.ask (request 0x19)] ∧
      decode (request 0x19) = .ok (.setplim (-2)) := ⟨rfl, rfl⟩
theorem witness_empty_agenda_running :
    (running .acc 2 1).agenda = [] ∧ (running .acc 2 1).regs.sst ≠ .idle ∧ held (running .acc 2 1) = false :=
  ⟨rfl, by decide, by decide⟩
theorem witness_empty_agenda_pace_held : (running .pace 2 1).agenda = [] ∧ held (running .pace 2 1) = true :=
  ⟨rfl, by decide +kernel⟩
theorem witness_empty_agenda_idle :
    (loaded 1).agenda = [] ∧ (loaded 1).regs.sst = .idle ∧ (loaded 1).session = none := ⟨rfl, rfl, rfl⟩
theorem witness_register_reads (no : Fin 8) : (turn (.readReg no) (loaded 1)).agenda = [.readReg no] := rfl

/-! Witnesses for the engine -/

/-- A session in its second of three iterations. -/
def session (p : Phase) : Session where
  params := { testSpeed := Config.testSpeedDefault, settle := 1, winDur := 1 / 5, winFreq := 10, maxIter := 3 }
  iteration := 2
  zeroOffset := -20
  lastDifference := some 60
  converged := false
  phase := p

/-- The engine waits in a delay that ends at 11, with the clock at 10. -/
theorem witness_empty_agenda_delay_held :
    held { loaded 1 with now := 10, session := some (session (.settleA 11)) } = true := by decide +kernel

/-- The engine's turn in a session. -/
def engaged (c : Session) (txq : List TxAnswer) : State := turn .engine { loaded 1 with session := some c, txq := txq }

theorem witness_step_size_ends :
    (50 : Rat) < 51 ∧ (30 : Rat) < 50 ∧ (50 : Rat) ≤ 50 ∧ (25 : Rat) < 30 ∧ (30 : Rat) ≤ 30 ∧ (15 : Rat) < 25 ∧
      (25 : Rat) ≤ 25 ∧ (15 : Rat) ≤ 15 := by decide +kernel
theorem witness_evaluation_converges :
    (engaged (session (.evaluate 71 (-69))) []).agenda = [.engine] ∧
      (engaged (session (.evaluate 71 (-69))) []).session = some (session (.evaluate 71 (-69))) ∧
      (session (.evaluate 71 (-69))).phase = .evaluate 71 (-69) ∧ (2 : Rat) = |71| - |-69| ∧ |(2 : Rat)| ≤ 2 := by
  refine ⟨rfl, rfl, rfl, ?_⟩
  norm_num [abs_of_neg, abs_of_pos]
theorem witness_evaluation_adjusts :
    (engaged (session (.evaluate 100 (-40))) []).agenda = [.engine] ∧
      (engaged (session (.evaluate 100 (-40))) []).session = some (session (.evaluate 100 (-40))) ∧
      (session (.evaluate 100 (-40))).phase = .evaluate 100 (-40) ∧ (60 : Rat) = |100| - |-40| ∧ 2 < |(60 : Rat)| := by
  refine ⟨rfl, rfl, rfl, ?_⟩
  norm_num [abs_of_neg, abs_of_pos]
theorem witness_adjustment :
    (engaged (session (.adjust 20)) [.accepted]).agenda = [.engine] ∧
      (engaged (session (.adjust 20)) [.accepted]).session = some (session (.adjust 20)) ∧
      (session (.adjust 20)).phase = .adjust 20 ∧ (engaged (session (.adjust 20)) [.accepted]).regs.addrV = true ∧
      (engaged (session (.adjust 20)) [.accepted]).txq = [.accepted] ∧
      (-25 : Int) = (session (.adjust 20)).zeroOffset.toInt - stepSize |20| ∧ ((0 : Rat) < 20) ∧
      (-32768 : Int) ≤ -25 ∧ (-25 : Int) ≤ 32767 ∧
      (session (.adjust 20)).iteration < (session (.adjust 20)).params.maxIter := by
  refine ⟨rfl, rfl, rfl, rfl, rfl, ?_, by norm_num, by decide, by decide, by decide⟩
  rw [abs_of_pos (by norm_num)]
  decide +kernel
/-- The same with a slower forward direction, in the last iteration. -/
def lastIteration : Session := { session (.adjust (-60)) with iteration := 3 }

theorem witness_adjustment_last :
    (engaged lastIteration [.accepted]).session = some lastIteration ∧ lastIteration.phase = .adjust (-60) ∧
      (engaged lastIteration [.accepted]).regs.addrV = true ∧
      (engaged lastIteration [.accepted]).txq = [.accepted] ∧
      (0 : Int) = lastIteration.zeroOffset.toInt + stepSize |-60| ∧ ¬ (0 : Rat) < -60 ∧
      lastIteration.params.maxIter ≤ lastIteration.iteration := by
  refine ⟨rfl, rfl, rfl, rfl, ?_, by norm_num, by decide⟩
  rw [abs_of_neg (by norm_num)]
  decide +kernel
/-- OffsetLeavingTheRangeIsRefused at both ends. -/
def atTheEnd (z : Half) (diff : Rat) : Session := { session (.adjust diff) with zeroOffset := z }

theorem witness_offset_below :
    (engaged (atTheEnd 0x8000 20) []).session = some (atTheEnd 0x8000 20) ∧
      (atTheEnd 0x8000 20).phase = .adjust 20 ∧ (0 : Rat) < 20 ∧ stepSize |20| = 5 ∧
      (atTheEnd 0x8000 20).zeroOffset.toInt - 5 < -32768 := by
  refine ⟨rfl, rfl, by norm_num, ?_, by decide⟩
  rw [abs_of_pos (by norm_num)]
  decide +kernel
theorem witness_offset_above :
    (engaged (atTheEnd 0x7FFF (-3)) []).session = some (atTheEnd 0x7FFF (-3)) ∧
      (atTheEnd 0x7FFF (-3)).phase = .adjust (-3) ∧ ¬ (0 : Rat) < -3 ∧ stepSize |-3| = 2 ∧
      32767 < (atTheEnd 0x7FFF (-3)).zeroOffset.toInt + 2 := by
  refine ⟨rfl, rfl, by norm_num, ?_, by decide⟩
  rw [abs_of_neg (by norm_num)]
  decide +kernel

/-- FailedSendIsFollowedByAStop: the five phases, each with its speed. -/
theorem witness_failed_send :
    (engaged (session (.spinRev 0)) [.failed, .failed]).agenda = [.engine] ∧
      (engaged (session (.spinRev 0)) [.failed, .failed]).session = some (session (.spinRev 0)) ∧
      ((session .stopA).phase, (0 : Int)) = (.stopA, 0) ∧
      ((session .spinFwd).phase, (25000 : Int)) = (.spinFwd, ((session .spinFwd).params.testSpeed : Int)) ∧
      ((session (.stopB 1)).phase, (0 : Int)) = (.stopB 1, 0) ∧
      ((session (.spinRev 0)).phase, (-25000 : Int)) = (.spinRev 0, -((session (.spinRev 0)).params.testSpeed : Int)) ∧
      ((session (.stopC 1 2)).phase, (0 : Int)) = (.stopC 1 2, 0) ∧
      ((session (.spinRev 0)).params.testSpeed : Int) ≤ 32767 ∧
      (engaged (session (.spinRev 0)) [.failed, .failed]).regs.addrV = true ∧
      (engaged (session (.spinRev 0)) [.failed, .failed]).txq = [.failed, .failed] :=
  ⟨rfl, rfl, rfl, rfl, rfl, rfl, rfl, by decide, rfl, rfl⟩
theorem witness_failed_offset_send :
    (engaged (session (.adjust 20)) [.failed, .accepted]).agenda = [.engine] ∧
      (engaged (session (.adjust 20)) [.failed, .accepted]).session = some (session (.adjust 20)) ∧
      (engaged (session (.adjust 20)) [.failed, .accepted]).regs.addrV = true ∧
      (engaged (session (.adjust 20)) [.failed, .accepted]).txq = [.failed, .accepted] := ⟨rfl, rfl, rfl, rfl⟩

/-- In an await phase, asked for after one reply; since then a Busy and an outcome have come. -/
def awaiting (p : Phase) (v : Reply) : State :=
  { engaged (session p) [.accepted] with replies := [.done, .err .busy, v] }

/-- WindowOutcomeDecidesTheSession: other requests' replies. -/
theorem witness_other_replies : ∀ x ∈ [Reply.err .busy], x ≠ .err .transportError ∧ ∀ r, x ≠ .sampled r := by simp
theorem witness_window_mean (p : Phase) (r : SampleResult) :
    (awaiting p (.sampled r)).agenda = [.engine] ∧ (awaiting p (.sampled r)).session = some (session p) ∧
      (awaiting p (.sampled r)).replies.drop 1 = [.err .busy] ++ .sampled r :: [] ∧
      (session (.awaitFwd 1)).phase = .awaitFwd 1 ∧ (session (.awaitRev 1 71)).phase = .awaitRev 1 71 :=
  ⟨rfl, rfl, rfl, rfl, rfl⟩
theorem witness_window_lost (p : Phase) :
    (awaiting p (.err .transportError)).agenda = [.engine] ∧
      (awaiting p (.err .transportError)).session = some (session p) ∧
      (awaiting p (.err .transportError)).replies.drop 1 = [.err .busy] ++ .err .transportError :: [] ∧
      (awaiting p (.err .transportError)).regs.addrV = true ∧ (awaiting p (.err .transportError)).txq = [.accepted] :=
  ⟨rfl, rfl, rfl, rfl, rfl⟩

/-- A session whose window is too short for one sample. -/
def emptyWindow (p : Phase) : Session :=
  { session p with params := { (session p).params with winDur := 9 / 100 } }

theorem witness_empty_window :
    (engaged (emptyWindow .measureFwd) [.failed]).agenda = [.engine] ∧
      (engaged (emptyWindow .measureFwd) [.failed]).session = some (emptyWindow .measureFwd) ∧
      (emptyWindow .measureFwd).phase = .measureFwd ∧ (emptyWindow (.measureRev 71)).phase = .measureRev 71 ∧
      (engaged (emptyWindow .measureFwd) [.failed]).regs.sst = .idle ∧
      (engaged (emptyWindow .measureFwd) [.failed]).regs.addrV = true ∧
      (((emptyWindow .measureFwd).params.winDur * (emptyWindow .measureFwd).params.winFreq : Rat)).floor < 1 ∧
      (engaged (emptyWindow .measureFwd) [.failed]).txq = [.failed] :=
  ⟨rfl, rfl, rfl, rfl, rfl, rfl, by decide +kernel, rfl⟩

/-- EngineStatesFollowTheirOrder: a session that goes on, and one that is returned. -/
theorem witness_engine_states :
    (engaged (session .start) []).session = some (session .start) ∧
      (after (step (engaged (session .start) [])) State.reset).session = some (session .stopA) := ⟨rfl, rfl⟩
theorem witness_engine_returns :
    ∃ t, step (engaged (session (.evaluate 71 (-69))) []) = .next t ∧ t.session = none := ⟨_, rfl, by decide +kernel⟩
theorem witness_budget :
    (∀ c, (engaged (session .stopA) [.accepted]).session = some c → 1 ≤ c.iteration ∧ c.iteration ≤ c.params.maxIter) ∧
      ∃ t, step (engaged (session .stopA) [.accepted]) = .next t := by
  refine ⟨fun c h => ?_, _, rfl⟩
  cases h
  decide
theorem witness_code_selects : (request 0x13).code = hostopCode (.setspd 0) := rfl

end Sys2Proof.Tests
end

section
/-!
PROOFS. The integer primitives of R8 as numbers, deadlines as multiples of the tick (D14), and which turns always have
an outcome (R10), each with the statements that follow from it.
-/

namespace Sys2Proof.Machine

/-! ### Integer primitives (R8) -/

theorem toNat_u16 (v : Int) : ((u16 v).toNat : Int) = v % 65536 := by
  rw [u16, BitVec.toNat_ofInt]
  exact Int.toNat_of_nonneg (Int.emod_nonneg v (by decide))

theorem sext16_eq (u : Half) : sext16 u = if u.toNat < 32768 then (u.toNat : Int) else (u.toNat : Int) - 65536 := by
  rw [sext16, BitVec.toInt_eq_toNat_cond]
  split <;> split <;> omega

theorem toNat_lo8 (u : Half) : (lo8 u).toNat = u.toNat % 256 := by simp [lo8]

theorem toNat_hi8 (u : Half) : (hi8 u).toNat = u.toNat / 256 := by
  have hu := u.isLt
  rw [hi8, BitVec.extractLsb'_toNat, Nat.shiftRight_eq_div_pow]
  omega

theorem toNat_le16 (x y : Byte) : (le16 x y).toNat = x.toNat + 256 * y.toNat := by
  rw [le16, BitVec.toNat_append, ← Nat.shiftLeft_add_eq_or_of_lt x.isLt, Nat.shiftLeft_eq]
  omega

theorem le16_lo8_hi8 (u : Half) : le16 (lo8 u) (hi8 u) = u :=
  BitVec.eq_of_toNat_eq <| by rw [toNat_le16, toNat_lo8, toNat_hi8, Nat.mod_add_div]

theorem sext16_u16 {v : Int} (hl : -32768 ≤ v) (hu : v ≤ 32767) : sext16 (u16 v) = v := by
  have h := toNat_u16 v
  rw [sext16_eq]
  split <;> omega

theorem u16_sext16 (u : Half) : u16 (sext16 u) = u := BitVec.ofInt_toInt

/-- Settles O1: each primitive is read as a number, and the laws follow from the readings. -/
theorem integerPrimitivesAreThoseOfTheNotation : Obligations.IntegerPrimitivesAreThoseOfTheNotation :=
  ⟨toNat_u16, sext16_eq, fun u => ⟨toNat_lo8 u, toNat_hi8 u⟩, toNat_le16, fun _ _ _ => rfl, le16_lo8_hi8,
    fun _ => sext16_u16, u16_sext16⟩

/-! ### Deadlines (R6, D14) -/

/-- Rounding up to a tick loses less than one period. -/
theorem deadline_tick_lt (p : PosTime) (target : Time) : deadline (some p) target < target + p.val := by
  have hp : 0 < p.val := p.property
  calc ((target / p.val).ceil : Rat) * p.val
      < (target / p.val + 1) * p.val := mul_lt_mul_of_pos_right Rat.ceil_lt hp
    _ = target + p.val := by rw [add_mul, div_mul_cancel₀ _ hp.ne', one_mul]

/-- Settles O54: on a clock that ticks the deadline is the quotient's ceiling in periods. -/
theorem deadlinesAreRoundedUp : Obligations.DeadlinesAreRoundedUp := by
  intro tick target
  refine ⟨le_deadline tick target, ?_, ?_⟩
  · rintro rfl
    exact deadline_continuous target
  · rintro p rfl
    exact ⟨deadline_tick_lt p target, (target / p.val).ceil, rfl⟩

/-! ### Outcomes (R10) -/

/-- Every operation answers a next state: an error of the spec is one as well (R166, log entry 1). -/
theorem exec_next (i : Instr) (s : State) : ∃ t, exec i s = .next t := by
  cases i <;> exact ⟨_, rfl⟩

theorem runRequest_ok {r : Request} {i : Instr} (h : decode r = .ok i) (s : State) : runRequest r s = exec i s := by
  simp only [runRequest, h]

theorem runRequest_error {r : Request} {e : DecodeError} (h : decode r = .error e) (s : State) :
    runRequest r s = .next (raise .pure .validationError s) := by
  simp only [runRequest, h]

theorem runRequest_next (r : Request) (s : State) : ∃ t, runRequest r s = .next t := by
  cases h : decode r with
  | ok i =>
    rw [runRequest_ok h]
    exact exec_next i s
  | error e => exact ⟨_, runRequest_error h s⟩

theorem engineTurn_idle {s : State} (h : s.session = none) : engineTurn s = .next s := by
  simp only [engineTurn, h]

/-- Without a session an empty agenda leaves the move to the clock or to the block, and both have one. -/
theorem restTurn_next {s : State} (h : s.session = none) : ∃ t, restTurn s = .next t := by
  unfold restTurn
  split
  · exact ⟨_, rfl⟩
  · split
    · exact ⟨_, rfl⟩
    · exact ⟨s, engineTurn_idle h⟩

/-- Of the turns only the engine's and the opening of a session can stop the machine. -/
theorem takeTurn_next {s : State} (h : s.session = none) {x : Turn} (hx : ∀ p z, x ≠ .openSession p z) :
    ∃ t, takeTurn x s = .next t := by
  cases x with
  | ask r => exact runRequest_next r s
  | engine => exact ⟨s, engineTurn_idle h⟩
  | openSession p z => exact absurd rfl (hx p z)
  | block | clock | reset | send | drain | readReg => exact ⟨_, rfl⟩

theorem step_nil {s : State} (h : s.agenda = []) : step s = restTurn s := by
  simp only [step, h]

theorem step_cons {s : State} {x : Turn} {rest : List Turn} (h : s.agenda = x :: rest) :
    step s = takeTurn x { s with agenda := rest } := by
  simp only [step, h]

/-- Settles O26: by the operations, then by whose turn it is. -/
theorem theBlockNeverStops : Obligations.TheBlockNeverStops := by
  refine ⟨exec_next, ?_⟩
  rintro s ⟨hsession, hopen⟩
  cases hs : s.agenda with
  | nil =>
    rw [step_nil hs]
    exact restTurn_next hsession
  | cons x rest =>
    rw [step_cons hs]
    refine takeTurn_next (s := { s with agenda := rest }) hsession ?_
    rintro p z rfl
    exact hopen p z rest hs

/-- Settles O45: the turn is a request, and the request is decoded. -/
theorem stepRunsTheDecodedOperation : Obligations.StepRunsTheDecodedOperation := by
  intro s r rest i hs hd
  rw [step_cons hs]
  exact runRequest_ok hd _

end Sys2Proof.Machine
end

section
/-!
PROOFS. What a step makes of the registers (R13, R31, R116), and the statements that follow from it: the registers stay
sound (R16 to R25), ADDR changes by LDADDR and reset only (R15, R16), no step writes an argument (R14, R188), and what
the host reads in the registers (R27, R28).
-/

namespace Sys2Proof.Machine

/-! ### The arguments (R6, R14, R188) -/

@[simp] theorem raise_cfg (k : OpClass) (e : ErrCode) (s : State) : (raise k e s).cfg = s.cfg := by
  rw [raise_eq]

theorem txWrite_cfg {who : Agent} {b : Bytes} {s s' : State} {a : TxAnswer} (h : txWrite who b s = (a, s')) :
    s'.cfg = s.cfg := by
  rw [(txWrite_spec h).1]

theorem rxRead_cfg {who : Agent} {s s' : State} {a : RxAnswer} (h : rxRead who s = (a, s')) : s'.cfg = s.cfg := by
  rw [(rxRead_spec h).1]

@[simp] theorem startSample_cfg (d f : Time) (s : State) : (startSample d f s).cfg = s.cfg := by
  obtain ⟨n, -, h⟩ | ⟨e, -, h⟩ := startSample_cases d f s <;> rw [h]
  · exact startRun_cfg n f s
  · exact raise_cfg _ _ _

@[simp] theorem loadAddress_cfg (a : Int) (s : State) : (loadAddress a s).cfg = s.cfg := by
  obtain ⟨-, h⟩ | ⟨-, -, h⟩ | ⟨-, -, h⟩ := loadAddress_cases a s <;> rw [h]
  · rfl
  · exact raise_cfg _ _ _
  · rfl

theorem exec_cfg {i : Instr} {s t : State} (h : exec i s = .next t) : t.cfg = s.cfg := by
  obtain ⟨-, v, rfl⟩ | ⟨a, -, rfl⟩ | ⟨d, f, -, rfl⟩ := exec_cases h
  · rfl
  · exact loadAddress_cfg a s
  · exact startSample_cfg d f s

@[simp] theorem blockMove_cfg (s : State) : (blockMove s).cfg = s.cfg := by
  unfold blockMove
  split
  case h_1 => rfl
  case h_2 =>
    obtain ⟨a, s', hx, ⟨-, h⟩ | ⟨-, h⟩⟩ := writeRequest_cases s <;> rw [h]
    · exact (txWrite_cfg hx :)
    · exact (raise_cfg _ _ _).trans (txWrite_cfg hx)
  case h_3 =>
    obtain ⟨a, s', hx, ⟨b, -, h⟩ | ⟨-, h⟩⟩ := readResponse_cases s <;> rw [h]
    · exact (rxRead_cfg hx :)
    · exact (raise_cfg _ _ _).trans (rxRead_cfg hx)
  case h_4 => rfl
  case h_5 =>
    obtain ⟨-, h⟩ | ⟨-, -, h⟩ := paceSlot_cases s
    · rw [h]
    · obtain ⟨-, h'⟩ | ⟨-, h'⟩ := advanceSlot_cases s <;> rw [h, h']
      rfl

/-- Settles O28: by the cases of a step, each of which hands the arguments on. -/
theorem argumentsAreNeverWritten : Obligations.ArgumentsAreNeverWritten := by
  intro s t h
  cases step_case h with
  | asked r rest i _ _ h => exact (exec_cfg h :)
  | unknown r rest _ h => subst h; rfl
  | block h => subst h; exact blockMove_cfg _
  | clockAlone _ h => subst h; rfl
  | clock reading rest _ h => subst h; rfl
  | reset rest _ h => subst h; rfl
  | drain a s' hx h => subst h; exact (rxRead_cfg hx :)
  | register no h => subst h; rfl
  | apart h => exact h.cfg
  | window d f h => exact h.cfg.trans (startSample_cfg d f _)

/-! ### What a step makes of the registers (R31, R116) -/

/-- The change of the registers in a step that neither loads an address nor resets the block: none, an error, the start
of a run, or a row of the transition table (R115 to R126). -/
inductive RunMove (r : Regs) : Regs → Prop where
  | keep : RunMove r r
  /-- LDADDR or SAMPLE is refused, or the transport ends a run. -/
  | fail (e : ErrCode) (hp : r.sst ≠ .pace) (he : storable e = true) : RunMove r { r with lastErr := e, sst := .idle }
  | start (d f t0 : Time) (n : Nat) (hn : entryCheck r d f = .ok n) :
      RunMove r { r with n := BitVec.ofNat 32 n, ivl := 1 / f, acc := 0, errcnt := 0, idx := 0, t0 := t0, sst := .req }
  | request (hr : r.sst = .req) : RunMove r { r with sst := .resp }
  | response (hr : r.sst = .resp) : RunMove r { r with sst := .acc }
  | reading (checkMarker : Bool) (b : Bytes) (hr : r.sst = .acc) :
      RunMove r
        { r with
          acc := r.acc + BitVec.ofInt 48 (speedOf checkMarker b)
          errcnt := if substituted checkMarker b then r.errcnt + 1 else r.errcnt
          sst := .pace }
  | nextSlot (hr : r.sst = .pace) (hn : r.idx + 1 < r.n) : RunMove r { r with idx := r.idx + 1, sst := .req }
  | result (hr : r.sst = .pace) : RunMove r { r with idx := r.idx + 1, lastErr := .ok, sst := .idle }

theorem RunMove.addr_eq {r r' : Regs} (h : RunMove r r') : r'.addr = r.addr := by cases h <;> rfl

theorem RunMove.addrV_eq {r r' : Regs} (h : RunMove r r') : r'.addrV = r.addrV := by cases h <;> rfl

/-- An error SAMPLE may store, raised outside S_PACE, is a `fail` of the registers (R166). -/
theorem runMove_raise_sampler {e : ErrCode} {s : State} (hp : s.regs.sst ≠ .pace) (he : storable e = true) :
    RunMove s.regs (raise .sampler e s).regs := by
  have hb : e ≠ .busy := by rintro rfl; cases he
  rw [raise_eq, if_neg hb]
  exact .fail e hp he

theorem startSample_runMove (d f : Time) (s : State) : RunMove s.regs (startSample d f s).regs := by
  obtain ⟨n, hn, h⟩ | ⟨e, he, h⟩ := startSample_cases d f s <;> rw [h]
  · exact .start d f s.now n hn
  · obtain ⟨-, rfl⟩ | ⟨hs, he⟩ := entryCheck_error he
    · exact .keep
    · exact runMove_raise_sampler (by simp [hs]) (by obtain rfl | rfl := he <;> rfl)

theorem writeRequest_runMove {s : State} (hs : s.regs.sst = .req) : RunMove s.regs (writeRequest s).regs := by
  obtain ⟨a, s', hx, h⟩ := writeRequest_cases s
  have hr : s'.regs = s.regs := by rw [(txWrite_spec hx).1]
  obtain ⟨-, h⟩ | ⟨-, h⟩ := h <;> rw [h, ← hr]
  · exact .request (hr ▸ hs)
  · exact runMove_raise_sampler (by simp [hr, hs]) rfl

theorem readResponse_runMove {s : State} (hs : s.regs.sst = .resp) : RunMove s.regs (readResponse s).regs := by
  obtain ⟨a, s', hx, h⟩ := readResponse_cases s
  have hr : s'.regs = s.regs := by rw [(rxRead_spec hx).1]
  obtain ⟨b, -, h⟩ | ⟨-, h⟩ := h <;> rw [h, ← hr]
  · exact .response (hr ▸ hs)
  · exact runMove_raise_sampler (by simp [hr, hs]) rfl

theorem paceSlot_runMove {s : State} (hs : s.regs.sst = .pace) : RunMove s.regs (paceSlot s).regs := by
  obtain ⟨-, h⟩ | ⟨-, -, h⟩ := paceSlot_cases s <;> rw [h]
  · exact .keep
  · obtain ⟨hn, h⟩ | ⟨-, h⟩ := advanceSlot_cases s <;> rw [h]
    · exact .nextSlot hs hn
    · exact .result hs

theorem blockMove_runMove (s : State) : RunMove s.regs (blockMove s).regs := by
  unfold blockMove
  split
  · exact .keep
  · exact writeRequest_runMove ‹_›
  · exact readResponse_runMove ‹_›
  · exact .reading _ _ ‹_›
  · exact paceSlot_runMove ‹_›

/-- LDADDR loads the address in S_IDLE, or is refused (R75). -/
theorem loadAddress_regs (a : Int) (s : State) :
    RunMove s.regs (loadAddress a s).regs ∨
      (s.regs.sst = .idle ∧ inByte a = true ∧
        (loadAddress a s).regs = { s.regs with addr := byteOf a, addrV := true, lastErr := .ok }) := by
  obtain ⟨-, h⟩ | ⟨hs, -, h⟩ | ⟨hs, ha, h⟩ := loadAddress_cases a s <;> rw [h]
  · exact .inl .keep
  · have hr : (raise .load .validationError s).regs = { s.regs with lastErr := .validationError, sst := .idle } := by
      rw [← hs]; rfl
    exact .inl (hr ▸ .fail _ (by simp [hs]) rfl)
  · exact .inr ⟨hs, ha, rfl⟩

/-- A step resets the registers, loads an address by an LDADDR the host asked for, or is a move of a run. -/
theorem step_regs {s t : State} (h : step s = .next t) :
    RunMove s.regs t.regs ∨ (∃ rest k, s.agenda = .reset :: rest ∧ t.regs = Regs.reset k) ∨
      ∃ r rest a, s.agenda = .ask r :: rest ∧ decode r = .ok (.ldaddr a) ∧ s.regs.sst = .idle ∧ inByte a = true ∧
        t.regs = { s.regs with addr := byteOf a, addrV := true, lastErr := .ok } := by
  cases step_case h with
  | asked r rest i hs hd h =>
    obtain ⟨-, v, rfl⟩ | ⟨a, rfl, rfl⟩ | ⟨d, f, -, rfl⟩ := exec_cases h
    · exact .inl .keep
    · obtain h | ⟨hi, ha, h⟩ := loadAddress_regs a (afterTurn s)
      · exact .inl h
      · exact .inr (.inr ⟨r, rest, a, hs, hd, hi, ha, h⟩)
    · exact .inl (startSample_runMove d f (afterTurn s))
  | unknown r rest _ h => subst h; exact .inl .keep
  | block h => subst h; exact .inl (blockMove_runMove (afterTurn s))
  | clockAlone _ h => subst h; exact .inl .keep
  | clock reading rest _ h => subst h; exact .inl .keep
  | reset rest hs h => subst h; exact .inr (.inl ⟨rest, _, hs, rfl⟩)
  | drain a s' hx h =>
    have hr : s'.regs = s.regs := by rw [(rxRead_spec hx).1, afterTurn_regs]
    subst h
    rw [deliver_regs, hr]
    exact .inl .keep
  | register no h => subst h; exact .inl .keep
  | apart h =>
    rw [h.regs]
    exact .inl .keep
  | window d f h =>
    rw [h.regs]
    exact .inl (startSample_runMove d f (afterTurn s))

/-! ### ADDR and the write matrix (R15, R16, R31) -/

theorem toNat_byteOf {a : Int} (h : inByte a = true) : ((byteOf a).toNat : Int) = a := by
  obtain ⟨hl, hu⟩ := (inByte_iff a).mp h
  rw [byteOf, BitVec.toNat_ofInt]
  omega

/-- Settles O27: a move of a run leaves ADDR and ADDR_V alone. -/
theorem addressChangesByLdaddrOrReset : Obligations.AddressChangesByLdaddrOrReset := by
  intro s t h
  obtain h | ⟨rest, k, hs, -⟩ | ⟨r, rest, a, hs, hd, hi, ha, h⟩ := step_regs h
  · exact .inl ⟨h.addr_eq, h.addrV_eq⟩
  · exact .inr (.inl ⟨rest, hs⟩)
  · obtain ⟨hl, hu⟩ := (inByte_iff a).mp ha
    rw [h]
    exact .inr (.inr ⟨r, rest, a, hs, hd, hi, hl, hu, toNat_byteOf ha, rfl⟩)

/-- LDADDR writes ADDR, ADDR_V and LASTERR at most (R31). -/
theorem loadAddress_writes (a : Int) (s : State) :
    ∃ x v e, (loadAddress a s).regs = { s.regs with addr := x, addrV := v, lastErr := e } := by
  obtain ⟨-, h⟩ | ⟨-, -, h⟩ | ⟨-, -, h⟩ := loadAddress_cases a s <;> rw [h] <;> exact ⟨_, _, _, rfl⟩

/-- Settles O24: a pure operation writes no register, and the two others are LDADDR and SAMPLE. -/
theorem operationsWriteTheirRegistersOnly : Obligations.OperationsWriteTheirRegistersOnly := by
  intro i s t h
  obtain ⟨-, v, rfl⟩ | ⟨a, rfl, rfl⟩ | ⟨d, f, rfl, rfl⟩ := exec_cases h
  · exact ⟨fun _ => ⟨rfl, rfl⟩, fun _ => ⟨rfl, rfl, rfl, rfl, rfl, rfl, rfl⟩, fun _ => rfl⟩
  · obtain ⟨x, v, e, hr⟩ := loadAddress_writes a s
    rw [hr]
    exact ⟨fun hi => absurd rfl (hi a), fun _ => ⟨rfl, rfl, rfl, rfl, rfl, rfl, rfl⟩, nofun⟩
  · have hm := startSample_runMove d f s
    exact ⟨fun _ => ⟨hm.addr_eq, hm.addrV_eq⟩, fun hi => absurd rfl (hi d f), nofun⟩

/-! ### The registers stay sound (R16, R18 to R20, R22, R25) -/

theorem readingsIn_pace {r : Regs} (h : r.sst = .pace) : readingsIn r = r.idx.toNat + 1 := if_pos h

theorem readingsIn_of_ne_pace {r : Regs} (h : r.sst ≠ .pace) : readingsIn r = r.idx.toNat := if_neg h

/-- Between two of the states in which ACC holds the completed slots alone, SST and LASTERR are free. -/
theorem Regs.Sound.withSst {r : Regs} (h : r.Sound) {st : SamplerState} {e : ErrCode} (hp : r.sst ≠ .pace)
    (hst : st ≠ .pace) (hrun : st ≠ .idle → r.sst ≠ .idle) (he : storable e = true) :
    ({ r with lastErr := e, sst := st } : Regs).Sound := by
  have hr : readingsIn { r with lastErr := e, sst := st } = readingsIn r := by
    rw [readingsIn_of_ne_pace hp, readingsIn_of_ne_pace hst]
  exact
    { idx_le := h.idx_le
      running := fun hi => h.running (hrun hi)
      errcnt_le := hr ▸ h.errcnt_le
      acc_lower := hr ▸ h.acc_lower
      acc_upper := hr ▸ h.acc_upper
      lastErr_storable := he
      addr_zero := h.addr_zero }

theorem toNat_succ {x : BitVec 32} (h : x.toNat + 1 < 2 ^ 32) : (x + 1).toNat = x.toNat + 1 :=
  BitVec.toNat_add_of_lt h

/-- During a run IDX counts one slot more without wrapping, because it is below N (R18). -/
theorem Regs.Sound.toNat_idx_succ {r : Regs} (h : r.Sound) (hr : r.sst ≠ .idle) :
    (r.idx + 1).toNat = r.idx.toNat + 1 := by
  obtain ⟨hlt, -, -⟩ := h.running hr
  have hn := r.n.isLt
  exact toNat_succ (by omega)

/-- The end of a slot moves its reading among the completed slots' (R20, R123). -/
theorem Regs.Sound.slotDone {r : Regs} (h : r.Sound) {st : SamplerState} {e : ErrCode} (hp : r.sst = .pace)
    (hst : st ≠ .pace) (hrun : st ≠ .idle → r.idx + 1 < r.n) (he : storable e = true) :
    ({ r with idx := r.idx + 1, lastErr := e, sst := st } : Regs).Sound := by
  have hbusy : r.sst ≠ .idle := by simp [hp]
  obtain ⟨hlt, haddr, hivl⟩ := h.running hbusy
  have hidx := h.toNat_idx_succ hbusy
  have hr : readingsIn { r with idx := r.idx + 1, lastErr := e, sst := st } = readingsIn r := by
    rw [readingsIn_pace hp, readingsIn_of_ne_pace hst, hidx]
  exact
    { idx_le := hidx.trans_le hlt
      running := fun hi => ⟨hrun hi, haddr, hivl⟩
      errcnt_le := hr ▸ h.errcnt_le
      acc_lower := hr ▸ h.acc_lower
      acc_upper := hr ▸ h.acc_upper
      lastErr_storable := he
      addr_zero := h.addr_zero }

/-- A count of at least one has a positive frequency, so the interval is positive (R111, R115). -/
theorem entryCheck_frequency_pos {r : Regs} {d f : Time} {n : Nat} (h : entryCheck r d f = .ok n) : 0 < f := by
  obtain ⟨-, -, hn, hf, -, -⟩ := entryCheck_ok h
  refine lt_of_le_of_ne hf ?_
  rintro rfl
  rw [sampleCount, mul_zero] at hn
  exact absurd hn (by decide)

/-- A count that passes the entry checks fits N and is not 0 (R112, R113). -/
theorem entryCheck_count {r : Regs} {d f : Time} {n : Nat} (h : entryCheck r d f = .ok n) :
    0 < (BitVec.ofNat 32 n).toNat := by
  obtain ⟨-, -, hl, -, hu, rfl⟩ := entryCheck_ok h
  unfold Config.countMax at hu
  rw [BitVec.toNat_ofNat]
  omega

theorem Regs.Sound.start {r : Regs} (h : r.Sound) {d f : Time} (t0 : Time) {n : Nat} (hn : entryCheck r d f = .ok n) :
    ({ r with n := BitVec.ofNat 32 n, ivl := 1 / f, acc := 0, errcnt := 0, idx := 0, t0 := t0, sst := .req } :
      Regs).Sound := by
  obtain ⟨-, haddr, -⟩ := entryCheck_ok hn
  exact
    { idx_le := Nat.zero_le _
      running := fun _ => ⟨entryCheck_count hn, haddr, one_div_pos.mpr (entryCheck_frequency_pos hn)⟩
      errcnt_le := Nat.zero_le _
      acc_lower := Int.le_refl 0
      acc_upper := Int.le_refl 0
      lastErr_storable := h.lastErr_storable
      addr_zero := h.addr_zero }

/-- ACC is wide enough for one speed more than 2^32 - 2 of them (R19, D16). -/
theorem toInt_acc_add {x : BitVec 48} {v : Int} {k : Nat} (hk : k < 4294967295) (hl : -32768 * (k : Int) ≤ x.toInt)
    (hu : x.toInt ≤ 32767 * (k : Int)) (hv : -32768 ≤ v ∧ v ≤ 32767) :
    (x + BitVec.ofInt 48 v).toInt = x.toInt + v := by
  rw [BitVec.toInt_add, BitVec.toInt_ofInt_eq_self (by decide) (by omega) (by omega)]
  exact Int.bmod_eq_of_le (by omega) (by omega)

/-- ERRCNT takes at most one more, and does not wrap below 2^32 - 1 (R20). -/
theorem toNat_errcnt_le {x : BitVec 32} {k : Nat} (hk : k < 4294967295) (hx : x.toNat ≤ k) (lost : Bool) :
    (if lost then x + 1 else x).toNat ≤ k + 1 := by
  cases lost with
  | false => exact Nat.le_succ_of_le hx
  | true =>
    rw [if_pos rfl, toNat_succ (by omega)]
    exact Nat.succ_le_succ hx

theorem Regs.Sound.reading {r : Regs} (h : r.Sound) (checkMarker : Bool) (b : Bytes) (hr : r.sst = .acc) :
    ({ r with
        acc := r.acc + BitVec.ofInt 48 (speedOf checkMarker b)
        errcnt := if substituted checkMarker b then r.errcnt + 1 else r.errcnt
        sst := .pace } : Regs).Sound := by
  obtain ⟨hlt, haddr, hivl⟩ := h.running (by simp [hr])
  obtain ⟨hvl, hvu⟩ := speedOf_bounds checkMarker b
  have hk : r.idx.toNat < 4294967295 := by have := r.n.isLt; omega
  have hread : readingsIn r = r.idx.toNat := readingsIn_of_ne_pace (by simp [hr])
  have hl := hread ▸ h.acc_lower
  have hu := hread ▸ h.acc_upper
  have hacc := toInt_acc_add hk hl hu ⟨hvl, hvu⟩
  exact
    { idx_le := h.idx_le
      running := fun _ => ⟨hlt, haddr, hivl⟩
      errcnt_le := by
        rw [readingsIn_pace rfl]
        exact toNat_errcnt_le hk (hread ▸ h.errcnt_le) _
      acc_lower := by
        rw [readingsIn_pace rfl, hacc]
        push_cast
        omega
      acc_upper := by
        rw [readingsIn_pace rfl, hacc]
        push_cast
        omega
      lastErr_storable := h.lastErr_storable
      addr_zero := h.addr_zero }

theorem RunMove.sound {r r' : Regs} (h : r.Sound) (hm : RunMove r r') : r'.Sound := by
  cases hm with
  | keep => exact h
  | fail e hp he => exact h.withSst hp (by decide) (fun hi => absurd rfl hi) he
  | start d f t0 n hn => exact h.start t0 hn
  | request hr => exact h.withSst (by simp [hr]) (by decide) (fun _ => by simp [hr]) h.lastErr_storable
  | response hr => exact h.withSst (by simp [hr]) (by decide) (fun _ => by simp [hr]) h.lastErr_storable
  | reading checkMarker b hr => exact h.reading checkMarker b hr
  | nextSlot hr hn => exact h.slotDone hr (by decide) (fun _ => hn) h.lastErr_storable
  | result hr => exact h.slotDone hr (by decide) (fun hi => absurd rfl hi) rfl

/-- R184 to R187: whatever T0 and IVL hold after it, a reset leaves the registers sound. -/
theorem Regs.reset_sound (k : Nat) : (Regs.reset k).Sound where
  idx_le := Nat.le_refl _
  running := fun hi => absurd rfl hi
  errcnt_le := Nat.le_refl _
  acc_lower := Int.le_refl 0
  acc_upper := Int.le_refl 0
  lastErr_storable := rfl
  addr_zero := fun _ => rfl

theorem Regs.Sound.load {r : Regs} (h : r.Sound) (hr : r.sst = .idle) (a : Byte) :
    ({ r with addr := a, addrV := true, lastErr := .ok } : Regs).Sound where
  idx_le := h.idx_le
  running := fun hi => absurd hr hi
  errcnt_le := h.errcnt_le
  acc_lower := h.acc_lower
  acc_upper := h.acc_upper
  lastErr_storable := rfl
  addr_zero := nofun

/-- Settles O40: by what a step makes of the registers. -/
theorem stepsKeepTheRegistersSound : Obligations.StepsKeepTheRegistersSound := by
  intro s t hs h
  obtain h | ⟨rest, k, -, h⟩ | ⟨r, rest, a, -, -, hi, -, h⟩ := step_regs h
  · exact h.sound hs
  · exact h ▸ Regs.reset_sound k
  · exact h ▸ hs.load hi _

/-! ### Reading the registers (R27, R28) -/

theorem step_readReg {s : State} {no : Fin 8} {rest : List Turn} (h : s.agenda = .readReg no :: rest) :
    step s = .next { s with agenda := rest, replies := s.replies ++ [.register (readRegister s.regs no)] } :=
  step_cons h

/-- Settles O48: the read is one turn, and hands over the register of R28's table. -/
theorem registerReads : Obligations.RegisterReads := by
  intro s no rest h
  refine ⟨_, step_readReg h, ?_, ?_, ?_, ?_, ?_, ?_, ?_, ?_⟩ <;>
    · rintro rfl
      rfl

theorem busy_iff (r : Regs) : busy r = true ↔ r.sst ≠ .idle := bne_iff_ne

theorem statusWord_sst (r : Regs) : (statusWord r).extractLsb' 0 3 = sstNumber r.sst := by
  rw [statusWord, BitVec.extractLsb'_append_eq_of_add_le (Nat.le_refl 3), BitVec.extractLsb'_eq_self]

theorem statusWord_busy (r : Regs) : (statusWord r).getLsbD 3 = busy r := by
  rw [statusWord, BitVec.getLsbD_append, BitVec.getLsbD_append]
  simp

theorem statusWord_lastErr (r : Regs) : (statusWord r).extractLsb' 4 4 = errNumber r.lastErr := by
  rw [statusWord, BitVec.extractLsb'_append_eq_of_le (by decide), BitVec.extractLsb'_append_eq_of_le (by decide),
    BitVec.extractLsb'_append_eq_of_add_le (by decide), BitVec.extractLsb'_eq_self]

theorem statusWord_addrV (r : Regs) : (statusWord r).getLsbD 8 = r.addrV := by
  rw [statusWord, BitVec.getLsbD_append, BitVec.getLsbD_append, BitVec.getLsbD_append]
  simp

/-- Settles O47: each field is a part of the word's concatenation. -/
theorem statusFields : Obligations.StatusFields := by
  intro r
  refine ⟨statusWord_sst r, ?_, statusWord_lastErr r, statusWord_addrV r, ?_⟩
  · rw [statusWord_busy, busy_iff]
  · rintro s rest h rfl
    exact step_readReg h

end Sys2Proof.Machine
end

section
/-!
PROOFS. The transport accesses a step makes (R39, R40, R44, R47): none, the host's own, or the one of the block's row, and
the statement that follows from it.
-/

namespace Sys2Proof.Machine

/-! ### What leaves the accesses made alone (R39, R40) -/

@[simp] theorem raise_trace (k : OpClass) (e : ErrCode) (s : State) : (raise k e s).trace = s.trace := by
  rw [raise_eq]

@[simp] theorem finish_trace (k : OpClass) (v : Reply) (s : State) : (finish k v s).trace = s.trace := rfl

@[simp] theorem startSample_trace (d f : Time) (s : State) : (startSample d f s).trace = s.trace := by
  obtain ⟨n, -, h⟩ | ⟨e, -, h⟩ := startSample_cases d f s <;> simp [h]

@[simp] theorem loadAddress_trace (a : Int) (s : State) : (loadAddress a s).trace = s.trace := by
  obtain ⟨-, h⟩ | ⟨-, -, h⟩ | ⟨-, -, h⟩ := loadAddress_cases a s <;> simp [h]

/-- No operation accesses the transport when it is asked for: SAMPLE only starts its run (R95, R116). -/
theorem exec_trace {i : Instr} {s t : State} (h : exec i s = .next t) : t.trace = s.trace := by
  obtain ⟨-, v, rfl⟩ | ⟨a, -, rfl⟩ | ⟨d, f, -, rfl⟩ := exec_cases h
  · exact deliver_trace v s
  · exact loadAddress_trace a s
  · exact startSample_trace d f s

@[simp] theorem paceSlot_trace (s : State) : (paceSlot s).trace = s.trace := by
  obtain ⟨-, h⟩ | ⟨-, -, h⟩ := paceSlot_cases s
  · rw [h]
  · obtain ⟨-, h'⟩ | ⟨-, h'⟩ := advanceSlot_cases s <;> simp [h, h']

/-! ### The two accesses of a run (R117, R118) -/

theorem txWrite_trace {who : Agent} {b : Bytes} {s s' : State} {a : TxAnswer} (h : txWrite who b s = (a, s')) :
    s'.trace = s.trace ++ [.wrote who b a] := by
  rw [(txWrite_spec h).1]

theorem rxRead_trace {who : Agent} {s s' : State} {a : RxAnswer} (h : rxRead who s = (a, s')) :
    s'.trace = s.trace ++ [.read who s.cfg.readTimeout.val a] := by
  rw [(rxRead_spec h).1]

theorem writeRequest_trace (s : State) :
    ∃ a, (writeRequest s).trace = s.trace ++ [.wrote .block (requestFrame s.cfg.subcodePos s.regs.addr) a] := by
  obtain ⟨a, s', hx, ⟨-, h⟩ | ⟨-, h⟩⟩ := writeRequest_cases s <;> exact ⟨a, by simp [h, txWrite_trace hx]⟩

theorem readResponse_trace (s : State) :
    ∃ a, (readResponse s).trace = s.trace ++ [.read .block s.cfg.readTimeout.val a] := by
  obtain ⟨a, s', hx, ⟨b, -, h⟩ | ⟨-, h⟩⟩ := readResponse_cases s <;> exact ⟨a, by simp [h, rxRead_trace hx]⟩

theorem length_requestFrame (pos : SubcodePos) (a : Byte) : (requestFrame pos a).length = 6 := by cases pos <;> rfl

/-! ### What a step adds to the accesses made (R44, R47) -/

/-- Who makes an access (R39, R40). -/
def Access.agent : Access → Agent
  | .wrote who _ _ => who
  | .read who _ _ => who

/-- The accesses one step from `s` can make: the host's own, the request in S_REQ, or the bounded-time read in S_RESP. -/
inductive StepAccesses (s : State) : List Access → Prop where
  /-- Two when a send fails and the engine sends its stop (R149). -/
  | host (l : List Access) (hl : l.length ≤ 2) (hh : ∀ x ∈ l, x.agent = .host) : StepAccesses s l
  | request (a : TxAnswer) (hs : s.regs.sst = .req) :
      StepAccesses s [.wrote .block (requestFrame s.cfg.subcodePos s.regs.addr) a]
  | response (a : RxAnswer) (hs : s.regs.sst = .resp) : StepAccesses s [.read .block s.cfg.readTimeout.val a]

/-- From `s` to `t` the accesses made grow by those of one step. -/
def AddsAccesses (s t : State) : Prop := ∃ l, t.trace = s.trace ++ l ∧ StepAccesses s l

theorem addsAccesses_of_trace_eq {s t : State} (h : t.trace = s.trace) : AddsAccesses s t :=
  ⟨[], by simp [h], .host [] (by simp) (by simp)⟩

theorem LeavesBlock.addsAccesses {s s' t : State} (h : LeavesBlock s' t) (hs : s'.trace = s.trace) :
    AddsAccesses s t := by
  obtain ⟨l, ht, hl, hh⟩ := h.trace
  refine ⟨l, hs ▸ ht, .host l hl fun x hx => ?_⟩
  obtain ⟨b, a, rfl⟩ := hh x hx
  rfl

/-- Of the rows of the transition table only S_REQ and S_RESP access the transport (R116). -/
theorem blockMove_addsAccesses (s : State) : AddsAccesses s (blockMove s) := by
  unfold blockMove
  split
  case h_1 => exact addsAccesses_of_trace_eq rfl
  case h_2 hs =>
    obtain ⟨a, h⟩ := writeRequest_trace s
    exact ⟨_, h, .request a hs⟩
  case h_3 hs =>
    obtain ⟨a, h⟩ := readResponse_trace s
    exact ⟨_, h, .response a hs⟩
  case h_4 => exact addsAccesses_of_trace_eq rfl
  case h_5 => exact addsAccesses_of_trace_eq (paceSlot_trace s)

theorem StepAccesses.of_afterTurn {s : State} {l : List Access} (h : StepAccesses (afterTurn s) l) :
    StepAccesses s l := by
  cases h with
  | host _ hl hh => exact .host l hl hh
  | request a hs => exact .request a hs
  | response a hs => exact .response a hs

theorem step_addsAccesses {s t : State} (h : step s = .next t) : AddsAccesses s t := by
  cases step_case h with
  | asked r rest i _ _ h => exact addsAccesses_of_trace_eq (exec_trace h :)
  | unknown r rest _ h => subst h; exact addsAccesses_of_trace_eq rfl
  | block h =>
    obtain ⟨l, ht, hl⟩ := blockMove_addsAccesses (afterTurn s)
    exact ⟨l, h ▸ ht, hl.of_afterTurn⟩
  | clockAlone _ h => subst h; exact addsAccesses_of_trace_eq rfl
  | clock reading rest _ h => subst h; exact addsAccesses_of_trace_eq rfl
  | reset rest _ h => subst h; exact addsAccesses_of_trace_eq rfl
  | drain a s' hx h =>
    subst h
    exact ⟨_, (rxRead_trace hx :), .host _ (by simp) (by simp [Access.agent])⟩
  | register no h => subst h; exact addsAccesses_of_trace_eq rfl
  | apart h => exact h.addsAccesses rfl
  | window d f h => exact h.addsAccesses (startSample_trace d f _)

/-- Settles O39: the accesses of a step are the host's, or the single one of the block's row. -/
theorem blockAccessesAreTheRowsOfARun : Obligations.BlockAccessesAreTheRowsOfARun := by
  intro s t h
  obtain ⟨l, ht, hl⟩ := step_addsAccesses h
  refine ⟨l, ht, ?_⟩
  cases hl with
  | host _ hl hh =>
    refine ⟨hl, fun b a hx => ?_, fun timeout a hx => ?_⟩
    · cases hh _ hx
    · cases hh _ hx
  | request a hs =>
    refine ⟨by simp, fun b a' hx => ?_, by simp⟩
    cases List.mem_singleton.mp hx
    exact ⟨rfl, hs, rfl, length_requestFrame _ _⟩
  | response a hs =>
    refine ⟨by simp, by simp, fun timeout a' hx => ?_⟩
    cases List.mem_singleton.mp hx
    exact ⟨rfl, hs, rfl⟩

end Sys2Proof.Machine
end

section
/-!
PROOFS. The request ports (R73): which requests ask for which operation, once for both directions, and the statements
that follow from it.
-/

namespace Sys2Proof.Machine

/-! ### Reading and writing the ports (R6, R73) -/

/-- The operation of `i`'s kind whose operands stand on the ports of `r` (log entry 14). -/
def readPorts (r : Request) (i : Instr) : Instr :=
  match i with
  | .ldaddr _ => .ldaddr r.x.toInt
  | .enc _ _ => .enc r.x.toInt r.y.toInt
  | .dechdr _ => .dechdr r.b
  | .dectlm _ => .dectlm r.b
  | .sample _ _ => .sample r.d r.f
  | .setzero _ => .setzero r.x.toInt
  | .setspd _ => .setspd r.x.toInt
  | .setid _ => .setid r.x.toInt
  | .setnlim _ => .setnlim r.x.toInt
  | .setplim _ => .setplim r.x.toInt
  | .setpos _ => .setpos r.x.toInt
  | .rdtlm => .rdtlm
  | .czero => .czero
  | .stop => .stop
  | .clrflt => .clrflt
  | .save => .save
  | .rezero => .rezero
  | .prepz => .prepz

/-- An operation's code selects the operation, whatever stands on the ports (R73). -/
theorem decode_of_code (i : Instr) {r : Request} (h : r.code = hostopCode i) : decode r = .ok (readPorts r i) := by
  obtain ⟨code, x, y, b, d, f⟩ := r
  subst h
  cases i <;> rfl

/-- What is read is on the ports, under its own code. -/
theorem decode_ok {r : Request} {i : Instr} (h : decode r = .ok i) : r.code = hostopCode i ∧ readPorts r i = i := by
  unfold decode at h
  split at h <;> cases h <;> exact ⟨BitVec.eq_of_toNat_eq ‹_›, rfl⟩

/-- The codes 5 to 15 and 29 to 255 are assigned to no operation (R73). -/
theorem hostopCode_assigned (i : Instr) :
    (hostopCode i).toNat ≤ 4 ∨ 16 ≤ (hostopCode i).toNat ∧ (hostopCode i).toNat ≤ 28 := by
  cases i <;> simp [hostopCode]

theorem decode_unassigned {r : Request} (h : 4 < r.code.toNat ∧ r.code.toNat < 16 ∨ 28 < r.code.toNat) :
    ∃ e, decode r = .error e := by
  cases hd : decode r with
  | error e => exact ⟨e, rfl⟩
  | ok i =>
    have hi := hostopCode_assigned i
    rw [← (decode_ok hd).1] at hi
    omega

theorem fitsPort_iff (v : Int) : fitsPort v = true ↔ -2147483648 ≤ v ∧ v ≤ 2147483647 := by simp [fitsPort]

/-- What stands on a port fits it (R6). -/
@[simp] theorem fitsPort_toInt (x : BitVec 32) : fitsPort x.toInt = true := by
  have hl := x.le_toInt
  have hu := x.toInt_lt
  rw [fitsPort_iff]
  omega

/-- A value that fits a port is read back from it (R6, R58). -/
theorem toInt_portOf {v : Int} (h : fitsPort v = true) : (portOf v).toInt = v := by
  obtain ⟨hl, hu⟩ := (fitsPort_iff v).mp h
  exact BitVec.toInt_ofInt_eq_self (by decide) (by omega) (by omega)

theorem encode_code (i : Instr) : (encode i).code = hostopCode i := by
  cases i <;> rfl

/-- The encoder puts each operand on the port it is read from. -/
theorem readPorts_encode {i : Instr} (h : WellFormed i = true) : readPorts (encode i) i = i := by
  cases i with
  | setzero z => exact congrArg Instr.setzero (toInt_portOf h)
  | setspd v => exact congrArg Instr.setspd (toInt_portOf h)
  | setid n => exact congrArg Instr.setid (toInt_portOf h)
  | setnlim m => exact congrArg Instr.setnlim (toInt_portOf h)
  | setplim m => exact congrArg Instr.setplim (toInt_portOf h)
  | setpos x => exact congrArg Instr.setpos (toInt_portOf h)
  | ldaddr a => exact congrArg Instr.ldaddr (toInt_portOf h)
  | enc op p =>
    obtain ⟨hop, hp⟩ := Bool.and_eq_true_iff.mp h
    exact congrArg₂ Instr.enc (toInt_portOf hop) (toInt_portOf hp)
  | rdtlm | czero | stop | clrflt | save | rezero | prepz | dectlm | dechdr | sample => rfl

theorem wellFormed_readPorts (r : Request) (i : Instr) : WellFormed (readPorts r i) = true := by
  cases i <;> simp [readPorts, WellFormed]

/-- Settles O2: the request has the operation's code, and each operand is read back from its port. -/
theorem decodeOfEncodeIsTheOperation : Obligations.DecodeOfEncodeIsTheOperation := by
  intro i h
  rw [decode_of_code i (encode_code i), readPorts_encode h]

/-- Settles O3: the operation is one read from the ports. -/
theorem decodedOperationsFitTheirPorts : Obligations.DecodedOperationsFitTheirPorts := by
  intro r i h
  obtain ⟨-, hi⟩ := decode_ok h
  exact hi ▸ wellFormed_readPorts r i

/-- Settles O4: an assigned code by its operation, any other by what a refused request does. -/
theorem operationSelectCodes : Obligations.OperationSelectCodes := by
  intro r
  refine ⟨decode_of_code (.ldaddr 0), decode_of_code (.enc 0 0), decode_of_code (.dechdr []),
    decode_of_code (.dectlm []), decode_of_code (.sample 0 0), decode_of_code .rdtlm, decode_of_code .czero,
    decode_of_code (.setzero 0), decode_of_code (.setspd 0), decode_of_code .stop, decode_of_code .clrflt,
    decode_of_code .save, decode_of_code (.setid 0), decode_of_code (.setnlim 0), decode_of_code (.setplim 0),
    decode_of_code (.setpos 0), decode_of_code .rezero, decode_of_code .prepz, ?_⟩
  intro s rest hc hs
  obtain ⟨e, he⟩ := decode_unassigned hc
  rw [step_cons hs, takeTurn, runRequest_error he, raise_pure]
  rfl

end Sys2Proof.Machine
end

section
/-!
PROOFS. Command frames (R54, R62, R74): the rows of the opcode table are disjoint, a frame of six bytes selects the row
of its opcode and pad, and what each builder's frame says (R65, R82 to R94).
-/

namespace Sys2Proof.Machine

/-! ### Rows of the opcode table (R74) -/

/-- Under the table's mask a frame is the match word of its opcode and pad, whatever its address and parameter. -/
theorem frame_and_frameMask (a op pad l g : Byte) :
    (Config.hdr ++ a ++ op ++ pad ++ l ++ g) &&& frameMask = frameMatch op pad := by
  have hand : (Config.hdr ++ a ++ op ++ pad ++ l ++ g) &&&
      (BitVec.allOnes 8 ++ 0#8 ++ BitVec.allOnes 8 ++ BitVec.allOnes 8 ++ 0#8 ++ 0#8) =
        Config.hdr ++ 0#8 ++ op ++ pad ++ 0#8 ++ 0#8 := by
    simp only [BitVec.and_append, BitVec.and_allOnes, BitVec.and_zero]
  exact hand.trans BitVec.append_assoc

theorem frameRows_words_nodup : (frameRows.map Prod.fst).Nodup := by decide

theorem frameRows_under_mask : ∀ row ∈ frameRows, row.1 &&& frameMask = row.1 := by decide

/-- Settles O5: the match words differ, and each lies under the mask. -/
theorem frameRowsAreDisjoint : Obligations.FrameRowsAreDisjoint :=
  (List.pairwise_map.mp frameRows_words_nodup).imp_of_mem fun hx hy hne =>
    ⟨hne, frameRows_under_mask _ hx, frameRows_under_mask _ hy⟩

/-- A frame with a row's opcode and pad selects that row, because no other row has its match word. -/
theorem decodeFrame_mkFrame {op pad : Byte} {f : Half → Instr} (h : (frameMatch op pad, f) ∈ frameRows) (a : Byte)
    (u : Half) : decodeFrame (mkFrame a op pad u) = .ok (a, f u) := by
  have hfind : frameRows.find? (fun row => frameMatch op pad == row.1) = some (frameMatch op pad, f) := by
    cases hf : frameRows.find? (fun row => frameMatch op pad == row.1) with
    | none => exact absurd (beq_self_eq_true _) (List.find?_eq_none.mp hf _ h)
    | some row =>
      have hw := List.find?_some hf
      rw [List.inj_on_of_nodup_map frameRows_words_nodup (List.mem_of_find?_eq_some hf) h (eq_of_beq hw).symm]
  simp only [decodeFrame, mkFrame, frame_and_frameMask, hfind, le16_lo8_hi8]

/-! ### What a builder computes (R81 to R94) -/

/-- The bytes or the error a builder computes; other operations are no builders. -/
def builtFrame (i : Instr) (s : State) : Except ErrCode Bytes :=
  match i with
  | .rdtlm => telemetryRequest s.cfg.subcodePos s.regs
  | .czero => plainFrame Config.opCzero s.regs
  | .setzero z => signedFrame Config.opSetzero z s.regs
  | .setspd v => signedFrame Config.opSetspd v s.regs
  | .stop => stopFrame s.regs
  | .clrflt => stopFrame s.regs
  | .save => plainFrame Config.opSave s.regs
  | .setid n => assignFrame n s.regs
  | .setnlim m => signedFrame Config.opSetnlim m s.regs
  | .setplim m => signedFrame Config.opSetplim m s.regs
  | .setpos x => jogFrame x s.regs
  | .rezero => plainFrame Config.opRezero s.regs
  | .prepz => plainFrame Config.opPrepz s.regs
  | .dectlm _ => .error .validationError
  | .ldaddr _ => .error .validationError
  | .enc _ _ => .error .validationError
  | .dechdr _ => .error .validationError
  | .sample _ _ => .error .validationError

/-- An answer that hands over six bytes has computed them. -/
theorem ok_of_answerPure {f : Except ErrCode Bytes} {g : Bytes → Reply} (hg : ∀ b, replyFrame (g b) = some b)
    {s t : State} {v : Reply} {b : Bytes} (h : (.next (answerPure (f.map g) s) : Answer) = .next t)
    (hr : t.replies = s.replies ++ [v]) (hv : replyFrame v = some b) : f = .ok b := by
  cases h
  rw [answerPure_eq, deliver_replies, List.append_cancel_left_eq] at hr
  cases hr
  cases f with
  | ok c => exact congrArg Except.ok (Option.some.inj ((hg c).symm.trans hv))
  | error e => cases hv

/-- A builder that answers with a frame has computed it. -/
theorem builtFrame_of_exec {i : Instr} {s t : State} {v : Reply} {b : Bytes} (hi : isBuilder i = true)
    (h : exec i s = .next t) (hr : t.replies = s.replies ++ [v]) (hv : replyFrame v = some b) :
    builtFrame i s = .ok b := by
  cases i with
  | dectlm | ldaddr | enc | dechdr | sample => cases hi
  | rdtlm | czero | setzero | setspd | stop | clrflt | save | setid | setnlim | setplim | setpos | rezero | prepz =>
    exact ok_of_answerPure (fun _ => rfl) h hr hv

theorem needAddr_ok {α : Type} {r : Regs} {k : Except ErrCode α} {x : α} (h : needAddr r k = .ok x) : k = .ok x := by
  unfold needAddr at h
  split at h
  · exact h
  · cases h

theorem requestFrame_byte3 (a : Byte) : requestFrame .byte3 a = mkFrame a Config.opRdtlm Config.subRdtlm 0 := rfl

/-! ### What a built frame says (R65, R74) -/

theorem decodeFrame_plainFrame {op : Byte} {f : Half → Instr} {r : Regs} {b : Bytes}
    (hrow : (frameMatch op Config.pad, f) ∈ frameRows) (h : plainFrame op r = .ok b) :
    decodeFrame b = .ok (r.addr, f 0) := by
  cases needAddr_ok h
  exact decodeFrame_mkFrame hrow _ _

theorem decodeFrame_signedFrame {op : Byte} {f : Int → Instr} {r : Regs} {v : Int} {b : Bytes}
    (hrow : (frameMatch op Config.pad, fun u => f (sext16 u)) ∈ frameRows) (h : signedFrame op v r = .ok b) :
    decodeFrame b = .ok (r.addr, f v) := by
  have h := needAddr_ok h
  split at h
  · rename_i hv
    obtain ⟨hl, hu⟩ := (inS16_iff v).mp hv
    cases h
    rw [decodeFrame_mkFrame hrow, sext16_u16 hl hu]
  · cases h

theorem jogTarget_bounds (x : Int) : -32768 ≤ jogTarget x ∧ jogTarget x ≤ 32767 := by
  unfold jogTarget clamp Config.jogLim
  split
  · omega
  · split <;> omega

theorem decodeFrame_jogFrame {x : Int} {r : Regs} {b : Bytes} (h : jogFrame x r = .ok b) :
    decodeFrame b = .ok (r.addr, .setpos (jogTarget x)) := by
  obtain ⟨hl, hu⟩ := jogTarget_bounds x
  cases needAddr_ok h
  rw [decodeFrame_mkFrame (f := fun u => .setpos (sext16 u)) (by simp [frameRows]), sext16_u16 hl hu]

theorem decodeFrame_assignFrame {n : Int} {r : Regs} {b : Bytes} (h : assignFrame n r = .ok b) :
    decodeFrame b = .ok (r.addr, .setid n) := by
  have h := needAddr_ok h
  split at h
  · rename_i hn
    obtain ⟨hl, hu⟩ := (inByte_iff n).mp hn
    cases h
    rw [decodeFrame_mkFrame (f := fun u => .setid u.toNat) (by simp [frameRows]), toNat_u16,
      Int.emod_eq_of_lt hl (by omega)]
  · cases h

theorem decodeFrame_telemetryRequest {r : Regs} {b : Bytes} (h : telemetryRequest .byte3 r = .ok b) :
    decodeFrame b = .ok (r.addr, .rdtlm) := by
  cases needAddr_ok h
  rw [requestFrame_byte3, decodeFrame_mkFrame (f := fun _ => .rdtlm) (by simp [frameRows])]

/-- STOP's frame is the one of `SETSPD 0` (R65). -/
theorem signedFrame_setspd_zero (r : Regs) : signedFrame Config.opSetspd 0 r = stopFrame r := rfl

/-- Each builder's frame selects the builder's own row of the table, with the operand it was built from. -/
theorem decodeFrame_builtFrame {i : Instr} {s : State} {b : Bytes} (hpos : i = .rdtlm → s.cfg.subcodePos = .byte3)
    (h : builtFrame i s = .ok b) : decodeFrame b = .ok (s.regs.addr, frameMeaning i) := by
  cases i with
  | rdtlm =>
    rw [builtFrame, hpos rfl] at h
    exact decodeFrame_telemetryRequest h
  | czero => exact decodeFrame_plainFrame (f := fun _ => .czero) (by simp [frameRows]) h
  | save => exact decodeFrame_plainFrame (f := fun _ => .save) (by simp [frameRows]) h
  | rezero => exact decodeFrame_plainFrame (f := fun _ => .rezero) (by simp [frameRows]) h
  | prepz => exact decodeFrame_plainFrame (f := fun _ => .prepz) (by simp [frameRows]) h
  | setzero z => exact decodeFrame_signedFrame (f := .setzero) (by simp [frameRows]) h
  | setspd v => exact decodeFrame_signedFrame (f := .setspd) (by simp [frameRows]) h
  | setnlim m => exact decodeFrame_signedFrame (f := .setnlim) (by simp [frameRows]) h
  | setplim m => exact decodeFrame_signedFrame (f := .setplim) (by simp [frameRows]) h
  | stop | clrflt => exact decodeFrame_signedFrame (f := .setspd) (by simp [frameRows]) h
  | setid n => exact decodeFrame_assignFrame h
  | setpos x => exact decodeFrame_jogFrame h
  | dectlm | ldaddr | enc | dechdr | sample => cases h

/-- Settles O6: the frame handed out is the one the builder computes, and that one selects the builder's row. -/
theorem builtFramesSelectTheirRow : Obligations.BuiltFramesSelectTheirRow := by
  intro i s t v b hi hpos h hr hv
  exact decodeFrame_builtFrame hpos (builtFrame_of_exec hi h hr hv)

/-- Settles O22: the three operations compute one frame, which selects SETSPD's row with parameter 0. -/
theorem stopAndClearFaultAreSetSpeedZero : Obligations.StopAndClearFaultAreSetSpeedZero := by
  intro s
  refine ⟨?_, rfl, fun a => ?_⟩
  · exact congrArg (answerFrame · s) (signedFrame_setspd_zero s.regs).symm
  · exact decodeFrame_mkFrame (op := Config.opSetspd) (pad := Config.pad) (f := fun u => .setspd (sext16 u))
      (by simp [frameRows]) a 0

/-- Settles O7: each word is read by the tables of R62, R74 and R73. -/
theorem writtenWordsDecode : Obligations.WrittenWordsDecode := by
  unfold Obligations.WrittenWordsDecode
  decide

end Sys2Proof.Machine
end

section
/-!
PROOFS. The codec's command frames (40_codec_encode.md): what LDADDR and ENC answer (R75, R77), what DECHDR accepts
(R80), and that ENC's frames separate the 16-bit images (R78) and every frame of the block is accepted by DECHDR.
-/

namespace Sys2Proof.Machine

/-! ### LDADDR (R75) -/

/-- Settles O8: the three outcomes of LDADDR, whose conditions exclude each other. -/
theorem ldaddrLoadsOrRefuses : Obligations.LdaddrLoadsOrRefuses := by
  intro a s
  obtain ⟨hs, h⟩ | ⟨hs, ha, h⟩ | ⟨hs, ha, h⟩ := loadAddress_cases a s
  · exact ⟨fun _ => congrArg _ h, fun hi => absurd hi hs, fun hi => absurd hi hs⟩
  · refine ⟨fun hr => absurd hs hr, fun _ _ => congrArg _ h, fun _ hl hu => ?_⟩
    exact absurd ((inByte_iff a).mpr ⟨hl, hu⟩) (by simp [ha])
  · obtain ⟨hl, hu⟩ := (inByte_iff a).mp ha
    exact ⟨fun hr => absurd hs hr, fun _ hout => by omega, fun _ _ _ => congrArg _ h⟩

/-! ### ENC (R77) -/

theorem encodeFrame_ok {r : Regs} {op p : Int} (hv : r.addrV = true) (hop : inByte op = true)
    (hp : inRep16 p = true) : encodeFrame r op p = .ok (mkFrame r.addr (byteOf op) Config.pad (u16 p)) := by
  rw [encodeFrame, needAddr_valid hv, if_pos hop, if_pos hp]

/-- The three checks of ENC answer one error, so their order does not show. -/
theorem encodeFrame_error {r : Regs} {op p : Int} (h : ¬ (r.addrV = true ∧ inByte op = true ∧ inRep16 p = true)) :
    encodeFrame r op p = .error .validationError := by
  unfold encodeFrame needAddr
  split
  · split
    · split
      · exact absurd ⟨‹_›, ‹_›, ‹_›⟩ h
      · rfl
    · rfl
  · rfl

theorem exec_enc (op p : Int) (s : State) :
    exec (.enc op p) s = .next (deliver (replyOf ((encodeFrame s.regs op p).map .frame)) s) :=
  congrArg _ (answerPure_eq _ s)

/-- What ENC answers when nothing is refused. -/
theorem exec_enc_ok {op p : Int} {s : State} (hv : s.regs.addrV = true) (hop : inByte op = true)
    (hp : inRep16 p = true) :
    exec (.enc op p) s = .next (deliver (.frame (mkFrame s.regs.addr (byteOf op) Config.pad (u16 p))) s) := by
  rw [exec_enc, encodeFrame_ok hv hop hp]
  rfl

/-- Settles O9: the operand ranges of the statement are the two checks of ENC. -/
theorem encBuildsOrRefuses : Obligations.EncBuildsOrRefuses := by
  intro op p s
  constructor
  · intro h
    have herr : encodeFrame s.regs op p = .error .validationError := by
      refine encodeFrame_error fun ⟨hv, hop, hp⟩ => ?_
      rw [inByte_iff] at hop
      rw [inRep16_iff] at hp
      have hout := h.resolve_left (by simp [hv])
      omega
    rw [exec_enc, herr]
    rfl
  · intro hv hol hou hpl hpu
    exact exec_enc_ok hv ((inByte_iff op).mpr ⟨hol, hou⟩) ((inRep16_iff p).mpr ⟨hpl, hpu⟩)

/-! ### One frame, one opcode and image (R78) -/

/-- The two parameter bytes determine the image. -/
theorem mkFrame_inj {a op op' pad : Byte} {u u' : Half} :
    mkFrame a op pad u = mkFrame a op' pad u' ↔ op = op' ∧ u = u' := by
  constructor
  · intro h
    simp only [mkFrame, List.cons.injEq, true_and, and_true] at h
    obtain ⟨hop, hlo, hhi⟩ := h
    exact ⟨hop, by rw [← le16_lo8_hi8 u, hlo, hhi, le16_lo8_hi8]⟩
  · rintro ⟨rfl, rfl⟩
    rfl

theorem byteOf_inj {v w : Int} (hv : inByte v = true) (hw : inByte w = true) : byteOf v = byteOf w ↔ v = w := by
  constructor
  · intro h
    rw [← toNat_byteOf hv, h, toNat_byteOf hw]
  · rintro rfl
    rfl

/-- Two integers have one 16-bit image exactly when they agree modulo 65536. -/
theorem u16_eq_iff (v w : Int) : u16 v = u16 w ↔ (v - w) % 65536 = 0 := by
  have hv := toNat_u16 v
  have hw := toNat_u16 w
  rw [← BitVec.toNat_inj]
  omega

theorem deliver_inj {v w : Reply} {s : State} : deliver v s = deliver w s ↔ v = w := by
  constructor
  · intro h
    simpa using congrArg State.replies h
  · rintro rfl
    rfl

/-- Settles O10: the answers differ in the frame alone, and the frame in opcode and image alone. -/
theorem encFramesAreInjectiveInTheImage : Obligations.EncFramesAreInjectiveInTheImage := by
  intro op op' p p' s hv hol hou hol' hou' hpl hpu hpl' hpu'
  have hop := (inByte_iff op).mpr ⟨hol, hou⟩
  have hop' := (inByte_iff op').mpr ⟨hol', hou'⟩
  rw [exec_enc_ok hv hop ((inRep16_iff p).mpr ⟨hpl, hpu⟩), exec_enc_ok hv hop' ((inRep16_iff p').mpr ⟨hpl', hpu'⟩),
    Host.Outcome.next.injEq, deliver_inj, Reply.frame.injEq, mkFrame_inj, byteOf_inj hop hop', u16_eq_iff]

/-! ### DECHDR (R80) -/

/-- The record DECHDR makes of a frame's fields, with the parameter in both views. -/
def headerOf (a op pad : Byte) (u : Half) : Header where
  addr := a
  opcode := op
  sub := pad
  paramU := u.toNat
  paramS := sext16 u

theorem parseHeader_frame {pos : SubcodePos} {op pad : Byte} (h : padLegal pos op pad = true) (a lo hi : Byte) :
    parseHeader pos [Config.hdr, a, op, pad, lo, hi] = .ok (headerOf a op pad (le16 lo hi)) := by
  simp [parseHeader, h, headerOf]

/-- DECHDR reads back what a frame was made from. -/
theorem parseHeader_mkFrame {pos : SubcodePos} {op pad : Byte} (h : padLegal pos op pad = true) (a : Byte) (u : Half) :
    parseHeader pos (mkFrame a op pad u) = .ok (headerOf a op pad u) := by
  rw [mkFrame, parseHeader_frame h, le16_lo8_hi8]

/-- DECHDR is total: whatever is no six-byte frame with header and legal byte 3 is a BadFrame. -/
theorem parseHeader_badFrame {pos : SubcodePos} {b : Bytes}
    (h : ¬ ∃ a op pad lo hi : Byte, b = [Config.hdr, a, op, pad, lo, hi] ∧ padLegal pos op pad = true) :
    parseHeader pos b = .error .badFrame := by
  unfold parseHeader
  split
  · rename_i hdr a op pad lo hi
    split
    · rfl
    · rename_i hh
      split
      · rename_i hp
        exact absurd ⟨a, op, pad, lo, hi, by rw [not_not.mp hh], hp⟩ h
      · rfl
  · rfl

theorem exec_dechdr (b : Bytes) (s : State) :
    exec (.dechdr b) s = .next (deliver (replyOf ((parseHeader s.cfg.subcodePos b).map .header)) s) :=
  congrArg _ (answerPure_eq _ s)

theorem exec_dechdr_ok {b : Bytes} {s : State} {h : Header} (hb : parseHeader s.cfg.subcodePos b = .ok h) :
    exec (.dechdr b) s = .next (deliver (.header h) s) := by
  rw [exec_dechdr, hb]
  rfl

theorem exec_dechdr_error {b : Bytes} {s : State} {e : ErrCode} (hb : parseHeader s.cfg.subcodePos b = .error e) :
    exec (.dechdr b) s = .next (deliver (.err e) s) := by
  rw [exec_dechdr, hb]
  rfl

theorem padLegal_pad (pos : SubcodePos) (op : Byte) : padLegal pos op Config.pad = true := by simp [padLegal]

/-- Above the signed range the signed view is lower by 65536 (R8, R78). -/
theorem sext16_u16_of_gt {v : Int} (hl : 32767 < v) (hu : v ≤ 65535) : sext16 (u16 v) = v - 65536 := by
  have h := toNat_u16 v
  rw [sext16_eq]
  split <;> omega

/-- Settles O11: the accepted frames, the others, and the fields of ENC's frame read back. -/
theorem dechdrParsesOrRejects : Obligations.DechdrParsesOrRejects := by
  intro s
  refine ⟨fun a op pad lo hi h => ?_, fun b h => ?_, fun op p hv hol hou hpl hpu => ?_⟩
  · rw [← toNat_le16]
    exact exec_dechdr_ok (parseHeader_frame ((padLegal_iff _ op pad).mpr h) a lo hi)
  · exact exec_dechdr_error <| parseHeader_badFrame fun ⟨a, op, pad, lo, hi, hb, hp⟩ =>
      h ⟨a, op, pad, lo, hi, hb, (padLegal_iff _ op pad).mp hp⟩
  · have hop := (inByte_iff op).mpr ⟨hol, hou⟩
    refine ⟨mkFrame s.regs.addr (byteOf op) Config.pad (u16 p), headerOf s.regs.addr (byteOf op) Config.pad (u16 p),
      exec_enc_ok hv hop ((inRep16_iff p).mpr ⟨hpl, hpu⟩), exec_dechdr_ok (parseHeader_mkFrame (padLegal_pad _ _) _ _),
      rfl, toNat_byteOf hop, rfl, rfl, sext16_u16 hpl, fun h => sext16_u16_of_gt h hpu, fun h => ?_⟩
    exact (toNat_u16 p).trans (Int.emod_eq_of_lt h (by omega))

/-! ### Every frame the block builds is one DECHDR accepts (R67, R78) -/

/-- A command frame to an address whose byte 3 is legal. -/
def LegalFrame (pos : SubcodePos) (a : Byte) (b : Bytes) : Prop :=
  ∃ op pad u, padLegal pos op pad = true ∧ b = mkFrame a op pad u

theorem legalFrame_pad (pos : SubcodePos) (a op : Byte) (u : Half) : LegalFrame pos a (mkFrame a op Config.pad u) :=
  ⟨op, Config.pad, u, padLegal_pad pos op, rfl⟩

/-- The sub-code stands in byte 3 only where DECHDR looks for it, and in the parameter otherwise (R63, R82). -/
theorem legalFrame_requestFrame (pos : SubcodePos) (a : Byte) : LegalFrame pos a (requestFrame pos a) := by
  cases pos with
  | byte3 => exact ⟨Config.opRdtlm, Config.subRdtlm, 0, by decide, rfl⟩
  | byte4 | byte5 => exact legalFrame_pad _ _ _ _

theorem legalFrame_plainFrame {op : Byte} {r : Regs} {b : Bytes} (h : plainFrame op r = .ok b) (pos : SubcodePos) :
    LegalFrame pos r.addr b := by
  cases needAddr_ok h
  exact legalFrame_pad _ _ _ _

theorem legalFrame_signedFrame {op : Byte} {v : Int} {r : Regs} {b : Bytes} (h : signedFrame op v r = .ok b)
    (pos : SubcodePos) : LegalFrame pos r.addr b := by
  have h := needAddr_ok h
  split at h <;> cases h
  exact legalFrame_pad _ _ _ _

theorem legalFrame_assignFrame {n : Int} {r : Regs} {b : Bytes} (h : assignFrame n r = .ok b) (pos : SubcodePos) :
    LegalFrame pos r.addr b := by
  have h := needAddr_ok h
  split at h <;> cases h
  exact legalFrame_pad _ _ _ _

theorem legalFrame_builtFrame {i : Instr} {s : State} {b : Bytes} (h : builtFrame i s = .ok b) :
    LegalFrame s.cfg.subcodePos s.regs.addr b := by
  cases i with
  | rdtlm =>
    cases needAddr_ok h
    exact legalFrame_requestFrame _ _
  | czero | stop | clrflt | save | rezero | prepz => exact legalFrame_plainFrame h _
  | setzero | setspd | setnlim | setplim => exact legalFrame_signedFrame h _
  | setid => exact legalFrame_assignFrame h _
  | setpos =>
    cases needAddr_ok h
    exact legalFrame_pad _ _ _ _
  | dectlm | ldaddr | enc | dechdr | sample => cases h

theorem legalFrame_encodeFrame {r : Regs} {op p : Int} {b : Bytes} (h : encodeFrame r op p = .ok b)
    (pos : SubcodePos) : LegalFrame pos r.addr b := by
  by_cases hc : r.addrV = true ∧ inByte op = true ∧ inRep16 p = true
  · obtain ⟨hv, hop, hp⟩ := hc
    cases (encodeFrame_ok hv hop hp).symm.trans h
    exact legalFrame_pad _ _ _ _
  · cases (encodeFrame_error hc).symm.trans h

/-- A decoder answers with a record or an error, never with a frame. -/
theorem replyFrame_eq_none_of_answerPure {α : Type} {f : Except ErrCode α} {g : α → Reply}
    (hg : ∀ x, replyFrame (g x) = none) {s : State} {v : Reply}
    (hr : (answerPure (f.map g) s).replies = s.replies ++ [v]) : replyFrame v = none := by
  rw [answerPure_eq, deliver_replies, List.append_cancel_left_eq] at hr
  cases hr
  cases f with
  | ok x => exact hg x
  | error e => rfl

theorem replyFrame_eq_none_of_loadAddress {a : Int} {s : State} {v : Reply}
    (hr : (loadAddress a s).replies = s.replies ++ [v]) : replyFrame v = none := by
  obtain ⟨-, h⟩ | ⟨-, -, h⟩ | ⟨-, -, h⟩ := loadAddress_cases a s
  all_goals
    rw [h] at hr
    cases List.append_cancel_left hr
    rfl

/-- SAMPLE is asked for: the run has started and nothing is answered yet, or it is refused. -/
theorem replyFrame_eq_none_of_startSample {d f : Time} {s : State} {v : Reply}
    (hr : (startSample d f s).replies = s.replies ++ [v]) : replyFrame v = none := by
  obtain ⟨n, -, h⟩ | ⟨e, -, h⟩ := startSample_cases d f s <;> rw [h] at hr
  · simp at hr
  · rw [raise_eq] at hr
    cases List.append_cancel_left hr
    rfl

/-- Only the builders and ENC answer with a frame, and the frame is a legal one to the loaded address. -/
theorem legalFrame_of_exec {i : Instr} {s t : State} {v : Reply} {b : Bytes} (h : exec i s = .next t)
    (hr : t.replies = s.replies ++ [v]) (hv : replyFrame v = some b) :
    LegalFrame s.cfg.subcodePos s.regs.addr b := by
  cases i with
  | enc op p => exact legalFrame_encodeFrame (ok_of_answerPure (fun _ => rfl) h hr hv) _
  | ldaddr a =>
    cases h
    cases (replyFrame_eq_none_of_loadAddress hr).symm.trans hv
  | sample d f =>
    cases h
    cases (replyFrame_eq_none_of_startSample hr).symm.trans hv
  | dectlm | dechdr =>
    cases h
    cases (replyFrame_eq_none_of_answerPure (fun _ => rfl) hr).symm.trans hv
  | rdtlm | czero | setzero | setspd | stop | clrflt | save | setid | setnlim | setplim | setpos | rezero | prepz =>
    exact legalFrame_builtFrame (builtFrame_of_exec rfl h hr hv)

/-- Settles O12: a legal frame is parsed, and no operation has changed where DECHDR looks for the sub-code. -/
theorem builtFramesAreAcceptedByDechdr : Obligations.BuiltFramesAreAcceptedByDechdr := by
  intro i s t v b h hr hv
  obtain ⟨op, pad, u, hpad, rfl⟩ := legalFrame_of_exec h hr hv
  rw [← exec_cfg h] at hpad
  exact ⟨rfl, rfl, headerOf s.regs.addr op pad u, rfl, exec_dechdr_ok (parseHeader_mkFrame hpad _ u)⟩

end Sys2Proof.Machine
end

section
/-!
PROOFS. The command builders (41_command_builders.md): which bytes each computes and when it refuses (R81 to R94), and
that a pure operation's answer rests on ADDR, ADDR_V and the block's arguments alone (R95).
-/

namespace Sys2Proof.Machine

/-! ### What a builder computes, and when it refuses (R81) -/

/-- A missing address and a refused operand answer one error, so their order does not show. -/
theorem needAddr_check_error {α : Type} {r : Regs} {legal : Bool} {x : α} (h : r.addrV = false ∨ legal = false) :
    needAddr r (if legal then .ok x else .error .validationError) = .error .validationError := by
  obtain hv | hl := h
  · exact needAddr_invalid hv _
  · unfold needAddr
    rw [hl]
    split <;> rfl

theorem needAddr_check_ok {α : Type} {r : Regs} {legal : Bool} {x : α} (hv : r.addrV = true) (hl : legal = true) :
    needAddr r (if legal then .ok x else .error .validationError) = .ok x := by
  rw [needAddr_valid hv, if_pos hl]

theorem inS16_eq_false_iff (v : Int) : inS16 v = false ↔ v < -32768 ∨ 32767 < v := by
  rw [← Bool.not_eq_true, inS16_iff]
  omega

theorem inByte_eq_false_iff (v : Int) : inByte v = false ↔ v < 0 ∨ 255 < v := by
  rw [← Bool.not_eq_true, inByte_iff]
  omega

theorem answerFrame_ok {f : Except ErrCode Bytes} {b : Bytes} (h : f = .ok b) (s : State) :
    answerFrame f s = .next (deliver (.frame b) s) := by
  rw [h]
  rfl

theorem answerFrame_error {f : Except ErrCode Bytes} {e : ErrCode} (h : f = .error e) (s : State) :
    answerFrame f s = .next (deliver (.err e) s) := by
  rw [h]
  exact congrArg _ (raise_pure e s)

/-! ### The parameter bytes (R8, R89, R92) -/

theorem lo8_u16 (v : Int) : lo8 (u16 v) = byteOf v := by
  rw [← BitVec.toNat_inj, toNat_lo8, byteOf, BitVec.toNat_ofInt]
  have h := toNat_u16 v
  omega

/-- A byte's image has the high byte 0. -/
theorem hi8_u16_of_inByte {n : Int} (h : inByte n = true) : hi8 (u16 n) = 0 := by
  obtain ⟨hl, hu⟩ := (inByte_iff n).mp h
  rw [← BitVec.toNat_inj, toNat_hi8]
  have h := toNat_u16 n
  have h0 : (0 : Byte).toNat = 0 := rfl
  omega

/-- The three ranges of SETPOS's operand (R92). -/
theorem jogTarget_eq {x c : Int} (hlow : x < -8191 → c = -8191) (hhigh : 8191 < x → c = 8191)
    (hin : -8191 ≤ x → x ≤ 8191 → c = x) : jogTarget x = c := by
  unfold jogTarget clamp Config.jogLim
  split
  · omega
  · split <;> omega

theorem clamped_eq (x : Int) : clamped x = decide (jogTarget x ≠ x) := by
  rw [Bool.eq_iff_iff, clamped, bne_iff_ne, decide_eq_true_iff]

/-! ### The builders' answers (R82 to R94) -/

/-- Settles O17: the six are one builder with six opcodes, and it checks the address alone. -/
theorem plainBuildersBuildOrRefuse : Obligations.PlainBuildersBuildOrRefuse := by
  intro i opc s hi
  have hexec : exec i s = answerFrame (plainFrame opc s.regs) s := by
    simp only [List.mem_cons, Prod.mk.injEq, List.not_mem_nil, or_false] at hi
    obtain ⟨rfl, rfl⟩ | ⟨rfl, rfl⟩ | ⟨rfl, rfl⟩ | ⟨rfl, rfl⟩ | ⟨rfl, rfl⟩ | ⟨rfl, rfl⟩ := hi <;> rfl
  rw [hexec]
  exact ⟨fun hv => answerFrame_error (needAddr_invalid hv _) s, fun hv => answerFrame_ok (needAddr_valid hv _) s⟩

/-- Settles O18: the four are one builder with four opcodes, and it checks the address and the operand's range. -/
theorem signedBuildersBuildOrRefuse : Obligations.SignedBuildersBuildOrRefuse := by
  intro v i opc s hi
  have hexec : exec i s = answerFrame (signedFrame opc v s.regs) s := by
    simp only [List.mem_cons, Prod.mk.injEq, List.not_mem_nil, or_false] at hi
    obtain ⟨rfl, rfl⟩ | ⟨rfl, rfl⟩ | ⟨rfl, rfl⟩ | ⟨rfl, rfl⟩ := hi <;> rfl
  rw [hexec]
  constructor
  · intro h
    exact answerFrame_error (needAddr_check_error (h.imp_right (inS16_eq_false_iff v).mpr)) s
  · intro hv hl hu
    exact answerFrame_ok (needAddr_check_ok hv ((inS16_iff v).mpr ⟨hl, hu⟩)) s

/-- Settles O19: the image of a new address has that address in the low byte and 0 in the high byte. -/
theorem setidBuildsOrRefuses : Obligations.SetidBuildsOrRefuses := by
  intro n s
  constructor
  · intro h
    exact answerFrame_error (needAddr_check_error (h.imp_right (inByte_eq_false_iff n).mpr)) s
  · intro hv hl hu
    have hn := (inByte_iff n).mpr ⟨hl, hu⟩
    have hok : assignFrame n s.regs = .ok [Config.hdr, s.regs.addr, Config.opSetid, Config.pad, byteOf n, 0] := by
      rw [assignFrame, needAddr_check_ok hv hn, mkFrame, lo8_u16, hi8_u16_of_inByte hn]
    exact answerFrame_ok hok s

/-- Settles O20: the operand is clamped to `c`, and the flag compares the two. -/
theorem setposClamps : Obligations.SetposClamps := by
  intro x c s hlow hhigh hin
  have hexec : exec (.setpos x) s = .next (deliver (replyOf ((jogFrame x s.regs).map (.jogFrame · (clamped x)))) s) :=
    congrArg _ (answerPure_eq _ s)
  rw [hexec, clamped_eq, jogFrame, jogTarget_eq hlow hhigh hin]
  constructor
  · intro hv
    rw [needAddr_invalid hv]
    rfl
  · intro hv
    rw [needAddr_valid hv]
    rfl

/-- Settles O21: the three places of the sub-code. -/
theorem rdtlmBuildsOrRefuses : Obligations.RdtlmBuildsOrRefuses := by
  intro s
  refine ⟨fun hv => answerFrame_error (needAddr_invalid hv _) s, fun hv => ?_⟩
  have hok : exec .rdtlm s = .next (deliver (.frame (requestFrame s.cfg.subcodePos s.regs.addr)) s) :=
    answerFrame_ok (needAddr_valid hv _) s
  rw [hok]
  cases s.cfg.subcodePos <;> rfl

/-! ### What a pure operation's answer rests on (R95) -/

/-- Two states with the same ADDR, ADDR_V and arguments of the block; the rest may differ (R95). -/
structure SameAddress (s s' : State) : Prop where
  addr : s'.regs.addr = s.regs.addr
  addrV : s'.regs.addrV = s.regs.addrV
  cfg : s'.cfg = s.cfg

section

variable {s s' : State}

/-- NeedAddr reads ADDR_V, and the computation behind it reads of the registers ADDR alone. -/
theorem SameAddress.needAddr_eq {α : Type} (h : SameAddress s s') (k : Byte → Except ErrCode α) :
    needAddr s'.regs (k s'.regs.addr) = needAddr s.regs (k s.regs.addr) := by
  rw [needAddr, needAddr, h.addr, h.addrV]

theorem SameAddress.plainFrame_eq (h : SameAddress s s') (op : Byte) : plainFrame op s'.regs = plainFrame op s.regs :=
  h.needAddr_eq fun a => .ok (mkFrame a op Config.pad 0)

theorem SameAddress.signedFrame_eq (h : SameAddress s s') (op : Byte) (v : Int) :
    signedFrame op v s'.regs = signedFrame op v s.regs :=
  h.needAddr_eq fun a => if inS16 v then .ok (mkFrame a op Config.pad (u16 v)) else .error .validationError

theorem SameAddress.builtFrame_eq (h : SameAddress s s') (i : Instr) : builtFrame i s' = builtFrame i s := by
  cases i with
  | rdtlm =>
    rw [builtFrame, builtFrame, h.cfg]
    exact h.needAddr_eq fun a => .ok (requestFrame s.cfg.subcodePos a)
  | czero | stop | clrflt | save | rezero | prepz => exact h.plainFrame_eq _
  | setzero | setspd | setnlim | setplim => exact h.signedFrame_eq _ _
  | setid n =>
    exact h.needAddr_eq fun a =>
      if inByte n then .ok (mkFrame a Config.opSetid Config.pad (u16 n)) else .error .validationError
  | setpos x => exact h.needAddr_eq fun a => .ok (mkFrame a Config.opSetpos Config.pad (u16 (jogTarget x)))
  | dectlm | ldaddr | enc | dechdr | sample => rfl

theorem SameAddress.encodeFrame_eq (h : SameAddress s s') (op p : Int) :
    encodeFrame s'.regs op p = encodeFrame s.regs op p :=
  h.needAddr_eq fun a =>
    if inByte op then
      if inRep16 p then .ok (mkFrame a (byteOf op) Config.pad (u16 p)) else .error .validationError
    else .error .validationError

end

/-- An operation that ends with a result computed alike in all states of one address has one answer there. -/
theorem exists_reply_of_sameAddress {i : Instr} {res : State → Except ErrCode Reply}
    (hexec : ∀ s', exec i s' = .next (answerPure (res s') s')) {s : State}
    (hres : ∀ {s'}, SameAddress s s' → res s' = res s) :
    ∃ v, ∀ s', SameAddress s s' → exec i s' = .next (deliver v s') := by
  refine ⟨replyOf (res s), fun s' h => ?_⟩
  rw [hexec, answerPure_eq, hres h]

theorem exists_reply_of_builtFrame {i : Instr} {g : Bytes → Reply}
    (hexec : ∀ s', exec i s' = .next (answerPure ((builtFrame i s').map g) s')) (s : State) :
    ∃ v, ∀ s', SameAddress s s' → exec i s' = .next (deliver v s') :=
  exists_reply_of_sameAddress hexec fun h => congrArg (Except.map g) (h.builtFrame_eq i)

/-- The pure operations' results: a builder's frame, ENC's, or a parser's record. -/
theorem exists_reply_of_isPure {i : Instr} (hi : isPure i = true) (s : State) :
    ∃ v, ∀ s', SameAddress s s' → exec i s' = .next (deliver v s') := by
  cases i with
  | ldaddr | sample => cases hi
  | rdtlm | czero | setzero | setspd | stop | clrflt | save | setid | setnlim | setplim | setpos | rezero | prepz =>
    exact exists_reply_of_builtFrame (fun _ => rfl) s
  | enc op p =>
    exact exists_reply_of_sameAddress (fun _ => rfl) fun h => congrArg (Except.map _) (h.encodeFrame_eq op p)
  | dechdr | dectlm => exact exists_reply_of_sameAddress (fun _ => rfl) fun h => by rw [h.cfg]

/-- Settles O23: the answer is the one given in `s`. -/
theorem pureOperationsDependOnTheAddressAlone : Obligations.PureOperationsDependOnTheAddressAlone := by
  intro i s hi
  obtain ⟨v, hv⟩ := exists_reply_of_isPure hi s
  exact ⟨v, fun s' ha hav hc => hv s' ⟨ha, hav, hc⟩⟩

end Sys2Proof.Machine
end

section
/-!
PROOFS. The telemetry parser (42_codec_decode.md): what DECTLM answers (R107), that seven bytes decide it (R106), and
the laws of its position (R102) and its speed (R108).
-/

namespace Sys2Proof.Machine

/-! ### The position (R102) -/

theorem positionOf_of_le {raw : Half} (h : raw.toNat ≤ 0x3FFF) : positionOf raw = 0x3FFF - (raw.toNat : Int) := by
  rw [positionOf, if_neg ((posOor_iff raw).not.mpr (by omega))]
  rfl

theorem toNat_u16_positionOf {raw : Half} (h : raw.toNat ≤ 0x3FFF) :
    ((u16 (positionOf raw)).toNat : Int) = 0x3FFF - raw.toNat := by
  rw [toNat_u16, positionOf_of_le h]
  omega

/-- Settles O16: the image of a decoded position is in range again, so the inversion applies twice. -/
theorem positionIsInverted : Obligations.PositionIsInverted := by
  intro raw h
  have hpos := positionOf_of_le h
  have himage := toNat_u16_positionOf h
  have hagain := positionOf_of_le (raw := u16 (positionOf raw)) (by omega)
  refine ⟨hpos, ?_, ?_, ?_⟩ <;> omega

/-! ### The telemetry parser (R106, R107) -/

/-- The record DECTLM makes of a response's three fields. -/
def telemetryOf (position speed current : Half) : Telemetry where
  position := positionOf position
  speed := sext16 speed
  current := current.toNat
  posOor := posOor position

theorem parseTelemetry_truncated {b : Bytes} (h : b.length < 7) (checkMarker : Bool) :
    parseTelemetry checkMarker b = .error .truncated := by
  unfold parseTelemetry
  split
  · simp only [List.length_cons] at h
    omega
  · rfl

theorem parseTelemetry_badMarker {checkMarker : Bool} {m : Byte} (hc : checkMarker = true) (hm : m ≠ Config.tlmMark)
    (p0 p1 s0 s1 c0 c1 : Byte) (rest : Bytes) :
    parseTelemetry checkMarker (m :: p0 :: p1 :: s0 :: s1 :: c0 :: c1 :: rest) = .error .badMarker :=
  if_pos (by simp [hc, hm])

theorem parseTelemetry_ok {checkMarker : Bool} {m : Byte} (h : checkMarker = false ∨ m = Config.tlmMark)
    (p0 p1 s0 s1 c0 c1 : Byte) (rest : Bytes) :
    parseTelemetry checkMarker (m :: p0 :: p1 :: s0 :: s1 :: c0 :: c1 :: rest) =
      .ok (telemetryOf (le16 p0 p1) (le16 s0 s1) (le16 c0 c1)) :=
  if_neg (by rcases h with h | h <;> simp [h])

/-- What follows seven bytes does not matter (R106). -/
theorem parseTelemetry_append (checkMarker : Bool) {a : Bytes} (h : a.length = 7) (rest : Bytes) :
    parseTelemetry checkMarker (a ++ rest) = parseTelemetry checkMarker a := by
  match a, h with
  | [_, _, _, _, _, _, _], _ => rfl

theorem parseTelemetry_take (checkMarker : Bool) {b : Bytes} (h : 7 ≤ b.length) :
    parseTelemetry checkMarker (b.take 7) = parseTelemetry checkMarker b := by
  rw [← parseTelemetry_append checkMarker (List.length_take_of_le h) (b.drop 7), List.take_append_drop]

/-! ### DECTLM (R107, R108) -/

theorem exec_dectlm (b : Bytes) (s : State) :
    exec (.dectlm b) s = .next (deliver (replyOf ((parseTelemetry s.cfg.checkMarker b).map .telemetry)) s) :=
  congrArg _ (answerPure_eq _ s)

theorem exec_dectlm_ok {b : Bytes} {s : State} {r : Telemetry} (hb : parseTelemetry s.cfg.checkMarker b = .ok r) :
    exec (.dectlm b) s = .next (deliver (.telemetry r) s) := by
  rw [exec_dectlm, hb]
  rfl

theorem exec_dectlm_error {b : Bytes} {s : State} {e : ErrCode} (hb : parseTelemetry s.cfg.checkMarker b = .error e) :
    exec (.dectlm b) s = .next (deliver (.err e) s) := by
  rw [exec_dectlm, hb]
  rfl

/-- The record of a response, with its unsigned fields written out as sums of bytes. -/
theorem telemetryOf_le16 (p0 p1 c0 c1 : Byte) (speed : Half) :
    telemetryOf (le16 p0 p1) speed (le16 c0 c1) =
      { position := positionOf (le16 p0 p1)
        speed := sext16 speed
        current := c0.toNat + 256 * c1.toNat
        posOor := decide (0x3FFF < p0.toNat + 256 * p1.toNat) } := by
  rw [telemetryOf, posOor, toNat_le16, toNat_le16]
  rfl

/-- Settles O13: the parser's three outcomes, in the order of its checks. -/
theorem dectlmDecodesOrRejects : Obligations.DectlmDecodesOrRejects := by
  intro s
  refine ⟨fun b h => exec_dectlm_error (parseTelemetry_truncated h _), fun m p0 p1 s0 s1 c0 c1 rest => ⟨?_, ?_⟩⟩
  · intro hc hm
    exact exec_dectlm_error (parseTelemetry_badMarker hc hm p0 p1 s0 s1 c0 c1 rest)
  · intro h
    refine ⟨positionOf (le16 p0 p1), ?_, fun hle => ?_⟩
    · rw [← telemetryOf_le16]
      exact exec_dectlm_ok (parseTelemetry_ok h p0 p1 s0 s1 c0 c1 rest)
    · have hraw := toNat_le16 p0 p1
      rw [positionOf_of_le (by omega), hraw]
      push_cast
      rfl

/-- Settles O14: the parser's result is that of the first seven bytes, and the rest of the answer is the state's. -/
theorem dectlmReadsTheFirstSevenBytes : Obligations.DectlmReadsTheFirstSevenBytes := by
  intro b s h
  rw [exec_dectlm, exec_dectlm, parseTelemetry_take _ (by omega)]

/-- Settles O15: the two speed bytes make up the image, whose signed reading is the speed. -/
theorem telemetrySpeedIsTheCommandImage : Obligations.TelemetrySpeedIsTheCommandImage := by
  intro v p0 p1 c0 c1 rest s hl hu
  refine ⟨_, exec_dectlm_ok (parseTelemetry_ok (.inr rfl) p0 p1 _ _ c0 c1 rest), ?_⟩
  calc sext16 (le16 (lo8 (u16 v)) (hi8 (u16 v))) = sext16 (u16 v) := congrArg sext16 (le16_lo8_hi8 (u16 v))
    _ = v := sext16_u16 hl hu

end Sys2Proof.Machine
end

section
/-!
PROOFS. The start of SAMPLE (R110 to R115) and the rows of the transition table (R116 to R126), each with its next state
written out, and the statements that follow from them.
-/

namespace Sys2Proof.Machine

/-! ### SAMPLE's entry (R110 to R115) -/

theorem startSample_ok {d f : Time} {s : State} {n : Nat} (h : entryCheck s.regs d f = .ok n) :
    startSample d f s = startRun n f s := by
  simp only [startSample, h]

theorem startSample_error {d f : Time} {s : State} {e : ErrCode} (h : entryCheck s.regs d f = .error e) :
    startSample d f s = raise .sampler e s := by
  simp only [startSample, h]

/-- A run refuses a second one and goes on (R110, R163). -/
theorem startSample_busy (d f : Time) {s : State} (h : s.regs.sst ≠ .idle) :
    startSample d f s = deliver (.err .busy) s :=
  startSample_error (if_pos h)

/-- In S_IDLE with an address loaded, the count decides and then the bounds (R110). -/
theorem entryCheck_loaded {r : Regs} (hs : r.sst = .idle) (hv : r.addrV = true) (d f : Time) :
    entryCheck r d f =
      if sampleCount d f < 1 then .error .emptySample
      else if f < 0 ∨ Config.countMax < sampleCount d f then .error .validationError
      else .ok (sampleCount d f).toNat :=
  (if_neg (not_not.mpr hs)).trans (needAddr_valid hv _)

theorem entryCheck_noAddress {r : Regs} (hs : r.sst = .idle) (hv : r.addrV = false) (d f : Time) :
    entryCheck r d f = .error .validationError :=
  (if_neg (not_not.mpr hs)).trans (needAddr_invalid hv _)

section loaded

variable {r : Regs} {d f : Time} (hs : r.sst = .idle) (hv : r.addrV = true)
include hs hv

theorem entryCheck_empty (hn : sampleCount d f < 1) : entryCheck r d f = .error .emptySample := by
  rw [entryCheck_loaded hs hv, if_pos hn]

theorem entryCheck_outOfBounds (hn : 1 ≤ sampleCount d f) (hb : f < 0 ∨ Config.countMax < sampleCount d f) :
    entryCheck r d f = .error .validationError := by
  rw [entryCheck_loaded hs hv, if_neg (not_lt.mpr hn), if_pos hb]

theorem entryCheck_passes (hl : 1 ≤ sampleCount d f) (hu : sampleCount d f ≤ Config.countMax) (hf : 0 ≤ f) :
    entryCheck r d f = .ok (sampleCount d f).toNat := by
  rw [entryCheck_loaded hs hv, if_neg (not_lt.mpr hl), if_neg (not_or.mpr ⟨not_lt.mpr hf, not_lt.mpr hu⟩)]

end loaded

/-- A SAMPLE refused in S_IDLE writes LASTERR alone (R166). -/
theorem exec_sample_refused {d f : Time} {s : State} {e : ErrCode} (hs : s.regs.sst = .idle) (he : e ≠ .busy)
    (h : entryCheck s.regs d f = .error e) :
    exec (.sample d f) s =
      .next { s with regs := { s.regs with lastErr := e }, replies := s.replies ++ [.err e] } := by
  change Host.Outcome.next (startSample d f s) = _
  rw [startSample_error h, raise_eq, if_neg he, endRegs_sampler, ← hs]

/-- A count of at least one at a frequency that is not negative leaves no room for a duration or a frequency of 0
(R113). -/
theorem pos_of_one_le_sampleCount {d f : Time} (h : 1 ≤ sampleCount d f) (hf : 0 ≤ f) : 0 < d ∧ 0 < f := by
  have hone : (1 : Rat) ≤ d * f := by exact_mod_cast Rat.le_floor_iff.mp h
  have hprod : 0 < d * f := lt_of_lt_of_le one_pos hone
  have hfpos : 0 < f := hf.lt_of_ne' (right_ne_zero_of_mul hprod.ne')
  exact ⟨(pos_iff_pos_of_mul_pos hprod).mpr hfpos, hfpos⟩

/-- Settles O29: the checks in their order, each with what it leaves. -/
theorem sampleEntryChecks : Obligations.SampleEntryChecks := by
  intro d f s
  refine ⟨?_, ?_, ?_, ?_, ?_⟩
  · intro hs
    exact congrArg Host.Outcome.next (startSample_busy d f hs)
  · intro hs hv
    exact exec_sample_refused hs (by decide) (entryCheck_noAddress hs hv d f)
  · intro hs hv hn
    exact exec_sample_refused hs (by decide) (entryCheck_empty hs hv hn)
  · intro hs hv hn hb
    exact exec_sample_refused hs (by decide) (entryCheck_outOfBounds hs hv hn hb)
  · intro hn hf
    exact pos_of_one_le_sampleCount hn (not_lt.mp hf)

/-- The count as N takes it (R115). -/
theorem ofNat_toNat_eq_ofInt {v : Int} (h : 0 ≤ v) : BitVec.ofNat 32 v.toNat = BitVec.ofInt 32 v := by
  rw [← BitVec.ofInt_natCast, Int.toNat_of_nonneg h]

/-- Settles O30: the checks pass and the run is initialised. -/
theorem sampleStartsTheRun : Obligations.SampleStartsTheRun := by
  intro d f s hs hv hl hu hf
  rw [← ofNat_toNat_eq_ofInt (le_trans zero_le_one hl)]
  exact congrArg Host.Outcome.next (startSample_ok (entryCheck_passes hs hv hl hu hf))

theorem toNat_count {d f : Time} (hl : 1 ≤ sampleCount d f) (hu : sampleCount d f ≤ Config.countMax) :
    ((BitVec.ofNat 32 (sampleCount d f).toNat).toNat : Int) = sampleCount d f := by
  unfold Config.countMax at hu
  rw [BitVec.toNat_ofNat]
  omega

theorem raise_sampler_sst {s : State} (hs : s.regs.sst = .idle) (e : ErrCode) :
    (raise .sampler e s).regs.sst = .idle := by
  rw [raise_eq]
  split
  · exact hs
  · rfl

/-- Settles O31: `floor(d * f) <= d * f < floor(d * f) + 1`, divided by `f`. -/
theorem scheduledRunFitsTheDuration : Obligations.ScheduledRunFitsTheDuration := by
  intro d f s t h hreq hs
  cases h
  obtain ⟨n, hn, h⟩ | ⟨e, -, h⟩ := startSample_cases d f s
  · rw [h, startRun_regs]
    have hf := entryCheck_frequency_pos hn
    obtain ⟨-, -, hl, -, hu, rfl⟩ := entryCheck_ok hn
    have hcount : (((BitVec.ofNat 32 (sampleCount d f).toNat).toNat : Int) : Rat) = sampleCount d f := by
      rw [toNat_count hl hu]
    rw [Int.cast_natCast] at hcount
    refine ⟨rfl, one_div_pos.mpr hf, ?_, ?_⟩
    · rw [mul_one_div, div_le_iff₀ hf, hcount]
      exact Rat.floor_le _
    · rw [mul_one_div, lt_div_iff₀ hf, hcount]
      exact_mod_cast Rat.lt_floor_add_one (d * f)
  · rw [h, raise_sampler_sst hs] at hreq
    cases hreq

/-! ### The rows of the transition table (R116 to R126) -/

section rows

variable {s : State}

theorem blockMove_idle (h : s.regs.sst = .idle) : blockMove s = s := by simp only [blockMove, h]
theorem blockMove_req (h : s.regs.sst = .req) : blockMove s = writeRequest s := by simp only [blockMove, h]
theorem blockMove_resp (h : s.regs.sst = .resp) : blockMove s = readResponse s := by simp only [blockMove, h]
theorem blockMove_acc (h : s.regs.sst = .acc) : blockMove s = accumulate s := by simp only [blockMove, h]
theorem blockMove_pace (h : s.regs.sst = .pace) : blockMove s = paceSlot s := by simp only [blockMove, h]

variable {rest : List Turn} (hb : s.agenda = .block :: rest)
include hb

theorem step_block : step s = .next (blockMove { s with agenda := rest }) := step_cons hb

theorem step_req (h : s.regs.sst = .req) : step s = .next (writeRequest { s with agenda := rest }) :=
  (step_block hb).trans (congrArg _ (blockMove_req h))

theorem step_resp (h : s.regs.sst = .resp) : step s = .next (readResponse { s with agenda := rest }) :=
  (step_block hb).trans (congrArg _ (blockMove_resp h))

theorem step_acc (h : s.regs.sst = .acc) : step s = .next (accumulate { s with agenda := rest }) :=
  (step_block hb).trans (congrArg _ (blockMove_acc h))

theorem step_pace (h : s.regs.sst = .pace) : step s = .next (paceSlot { s with agenda := rest }) :=
  (step_block hb).trans (congrArg _ (blockMove_pace h))

end rows

/-- S_REQ with an answer fixed by the transport (R117, R126). -/
theorem writeRequest_accepted {s : State} {q : List TxAnswer} (h : s.txq = .accepted :: q) :
    writeRequest s =
      { s with
        txq := q
        trace := s.trace ++ [.wrote .block (requestFrame s.cfg.subcodePos s.regs.addr) .accepted]
        regs := { s.regs with sst := .resp } } := by
  simp only [writeRequest, txWrite_fixed _ _ h]

theorem writeRequest_failed {s : State} {q : List TxAnswer} (h : s.txq = .failed :: q) :
    writeRequest s =
      { s with
        txq := q
        trace := s.trace ++ [.wrote .block (requestFrame s.cfg.subcodePos s.regs.addr) .failed]
        regs := { s.regs with sst := .idle, lastErr := .transportError }
        replies := s.replies ++ [.err .transportError] } := by
  simp only [writeRequest, txWrite_fixed _ _ h]
  rfl

/-- S_RESP with an answer fixed by the transport (R118, R126). -/
theorem readResponse_bytes {s : State} {b : Bytes} {q : List RxAnswer} (h : s.rxq = .bytes b :: q) :
    readResponse s =
      { s with
        rxq := q
        trace := s.trace ++ [.read .block s.cfg.readTimeout.val (.bytes b)]
        inHand := b
        regs := { s.regs with sst := .acc } } := by
  simp only [readResponse, rxRead_fixed _ h]

theorem readResponse_failed {s : State} {q : List RxAnswer} (h : s.rxq = .failed :: q) :
    readResponse s =
      { s with
        rxq := q
        trace := s.trace ++ [.read .block s.cfg.readTimeout.val .failed]
        regs := { s.regs with sst := .idle, lastErr := .transportError }
        replies := s.replies ++ [.err .transportError] } := by
  simp only [readResponse, rxRead_fixed _ h]
  rfl

/-- S_REQ, whatever the transport answers (R117, R126). -/
theorem writeRequest_eq (s : State) :
    ∃ a draws, (∀ a' q, s.txq = a' :: q → a = a' ∧ s.txq.tail = q) ∧
      ((a = .accepted ∧ writeRequest s =
          { s with
            txq := s.txq.tail
            draws := draws
            trace := s.trace ++ [.wrote .block (requestFrame s.cfg.subcodePos s.regs.addr) a]
            regs := { s.regs with sst := .resp } }) ∨
        (a = .failed ∧ writeRequest s =
          { s with
            txq := s.txq.tail
            draws := draws
            trace := s.trace ++ [.wrote .block (requestFrame s.cfg.subcodePos s.regs.addr) a]
            regs := { s.regs with sst := .idle, lastErr := .transportError }
            replies := s.replies ++ [.err .transportError] })) := by
  obtain ⟨a, s', hx, h⟩ := writeRequest_cases s
  obtain ⟨hs', hq⟩ := txWrite_spec hx
  refine ⟨a, s'.draws, fun a' q hc => ?_, ?_⟩
  · simpa [hc, eq_comm] using hq
  · rw [hs'] at h
    exact h

/-- S_RESP, whatever the transport answers (R118, R126). -/
theorem readResponse_eq (s : State) :
    ∃ a draws, (∀ a' q, s.rxq = a' :: q → a = a' ∧ s.rxq.tail = q) ∧
      ((∃ b, a = .bytes b ∧ readResponse s =
          { s with
            rxq := s.rxq.tail
            draws := draws
            trace := s.trace ++ [.read .block s.cfg.readTimeout.val a]
            inHand := b
            regs := { s.regs with sst := .acc } }) ∨
        (a = .failed ∧ readResponse s =
          { s with
            rxq := s.rxq.tail
            draws := draws
            trace := s.trace ++ [.read .block s.cfg.readTimeout.val a]
            regs := { s.regs with sst := .idle, lastErr := .transportError }
            replies := s.replies ++ [.err .transportError] })) := by
  obtain ⟨a, s', hx, h⟩ := readResponse_cases s
  obtain ⟨hs', hq⟩ := rxRead_spec hx
  refine ⟨a, s'.draws, fun a' q hc => ?_, ?_⟩
  · simpa [hc, eq_comm] using hq
  · rw [hs'] at h
    exact h

/-- S_PACE holds short of the slot's end (R121). -/
theorem paceSlot_held {s : State} (h : slotOver s = false) : paceSlot s = s := if_neg (by simp [h])

theorem paceSlot_over {s : State} (h : slotOver s = true) : paceSlot s = advanceSlot s := if_pos h

theorem slotOver_iff (s : State) :
    slotOver s = true ↔ deadline s.cfg.tick (slotEnd s.regs.t0 s.regs.ivl s.regs.idx.toNat) ≤ s.now :=
  reached_iff _ _

/-- Settles O32: the row's one write, by its answer. -/
theorem requestRowWritesOnce : Obligations.RequestRowWritesOnce := by
  intro s rest hs hb
  obtain ⟨a, draws, hq, h⟩ := writeRequest_eq { s with agenda := rest }
  refine ⟨a, _, step_req hb hs, ?_⟩
  have hlen := length_requestFrame s.cfg.subcodePos s.regs.addr
  have hbytes : s.cfg.subcodePos = .byte3 →
      requestFrame s.cfg.subcodePos s.regs.addr = [0xAA, s.regs.addr, 0x08, 0x07, 0x00, 0x00] := by
    intro hp
    rw [hp]
    rfl
  obtain ⟨rfl, h⟩ | ⟨rfl, h⟩ := h <;> rw [h]
  · exact ⟨hq, rfl, hlen, hbytes, fun _ => ⟨rfl, rfl⟩, nofun, rfl, rfl, rfl, rfl, rfl, rfl, rfl⟩
  · exact ⟨hq, rfl, hlen, hbytes, nofun, fun _ => ⟨rfl, rfl⟩, rfl, rfl, rfl, rfl, rfl, rfl, rfl⟩

/-- Settles O33: the row's one read, by its answer. -/
theorem responseRowReadsOnce : Obligations.ResponseRowReadsOnce := by
  intro s rest hs hb
  obtain ⟨a, draws, hq, h⟩ := readResponse_eq { s with agenda := rest }
  refine ⟨a, _, step_resp hb hs, ?_⟩
  obtain ⟨b, rfl, h⟩ | ⟨rfl, h⟩ := h <;> rw [h]
  · refine ⟨hq, rfl, fun b' hb' => ?_, nofun, rfl, rfl, rfl, rfl, rfl, rfl⟩
    cases hb'
    exact ⟨rfl, rfl, rfl⟩
  · exact ⟨hq, rfl, nofun, fun _ => ⟨rfl, rfl, rfl⟩, rfl, rfl, rfl, rfl, rfl, rfl⟩

/-- Settles O34: the transport's next answer is a failure, in each of the two rows. -/
theorem transportErrorEndsTheRun : Obligations.TransportErrorEndsTheRun := by
  intro s rest hb
  refine ⟨fun q hs hq => ?_, fun q hs hq => ?_, rfl⟩
  · exact (step_req hb hs).trans (congrArg Host.Outcome.next (writeRequest_failed hq))
  · exact (step_resp hb hs).trans (congrArg Host.Outcome.next (readResponse_failed hq))

/-! ### S_ACC (R119, R120) -/

section reading

variable {checkMarker : Bool} {b : Bytes}

theorem speedOf_ok {r : Telemetry} (h : parseTelemetry checkMarker b = .ok r) : speedOf checkMarker b = r.speed := by
  simp only [speedOf, h]

theorem speedOf_error {e : ErrCode} (h : parseTelemetry checkMarker b = .error e) : speedOf checkMarker b = 0 := by
  simp only [speedOf, h]

theorem substituted_ok {r : Telemetry} (h : parseTelemetry checkMarker b = .ok r) :
    substituted checkMarker b = false := by
  simp only [substituted, h]

theorem substituted_error {e : ErrCode} (h : parseTelemetry checkMarker b = .error e) :
    substituted checkMarker b = true := by
  simp only [substituted, h]

end reading

/-- A response that decodes adds its speed (R119). -/
theorem accumulate_ok {s : State} {r : Telemetry} (h : parseTelemetry s.cfg.checkMarker s.inHand = .ok r) :
    accumulate s =
      { s with regs := { s.regs with acc := s.regs.acc + BitVec.ofInt 48 r.speed, sst := .pace } } := by
  simp [accumulate, speedOf_ok h, substituted_ok h]

/-- A response that does not decode is a sample of speed 0 and one count in ERRCNT (R120). -/
theorem accumulate_error {s : State} {e : ErrCode} (h : parseTelemetry s.cfg.checkMarker s.inHand = .error e) :
    accumulate s = { s with regs := { s.regs with errcnt := s.regs.errcnt + 1, sst := .pace } } := by
  simp [accumulate, speedOf_error h, substituted_error h]

/-- What DECTLM answers is what the parser gives (R107). -/
theorem parseTelemetry_of_exec {b : Bytes} {s : State} {v : Reply}
    (h : exec (.dectlm b) s = .next { s with replies := s.replies ++ [v] }) :
    replyOf ((parseTelemetry s.cfg.checkMarker b).map .telemetry) = v := by
  rw [exec_dectlm] at h
  exact deliver_inj.mp (Host.Outcome.next.inj h)

theorem parseTelemetry_of_telemetry {b : Bytes} {s : State} {r : Telemetry}
    (h : exec (.dectlm b) s = .next { s with replies := s.replies ++ [.telemetry r] }) :
    parseTelemetry s.cfg.checkMarker b = .ok r := by
  have hv := parseTelemetry_of_exec h
  cases hp : parseTelemetry s.cfg.checkMarker b <;> rw [hp] at hv <;> cases hv
  rfl

theorem parseTelemetry_of_err {b : Bytes} {s : State} {e : ErrCode}
    (h : exec (.dectlm b) s = .next { s with replies := s.replies ++ [.err e] }) :
    parseTelemetry s.cfg.checkMarker b = .error e := by
  have hv := parseTelemetry_of_exec h
  cases hp : parseTelemetry s.cfg.checkMarker b <;> rw [hp] at hv <;> cases hv
  rfl

/-- In sound registers ACC takes one speed more without overflow (R19). -/
theorem Regs.Sound.toInt_acc_add {r : Regs} (h : r.Sound) (hr : r.sst = .acc) {v : Int}
    (hv : -32768 ≤ v ∧ v ≤ 32767) : (r.acc + BitVec.ofInt 48 v).toInt = r.acc.toInt + v := by
  obtain ⟨hlt, -, -⟩ := h.running (by simp [hr])
  have hn := r.n.isLt
  have hread : readingsIn r = r.idx.toNat := readingsIn_of_ne_pace (by simp [hr])
  exact Machine.toInt_acc_add (by omega) (hread ▸ h.acc_lower) (hread ▸ h.acc_upper) hv

/-- Settles O35: the response in hand parses or not, and S_ACC counts it accordingly. -/
theorem accumulateRowAddsTheSpeed : Obligations.AccumulateRowAddsTheSpeed := by
  intro s rest hs hb
  refine ⟨fun r hr => ?_, fun e he => ?_⟩
  · have hp := parseTelemetry_of_telemetry hr
    have hv : -32768 ≤ r.speed ∧ r.speed ≤ 32767 := speedOf_ok hp ▸ speedOf_bounds _ _
    have hstep := (step_acc hb hs).trans (congrArg Host.Outcome.next (accumulate_ok hp))
    exact ⟨hstep, hv.1, hv.2, fun hsound => hsound.toInt_acc_add hs hv⟩
  · have hp := parseTelemetry_of_err he
    exact (step_acc hb hs).trans (congrArg Host.Outcome.next (accumulate_error hp))

/-! ### S_PACE (R121 to R124) -/

/-- The next slot (R123). -/
theorem advanceSlot_next {s : State} (h : s.regs.idx + 1 < s.regs.n) :
    advanceSlot s = { s with regs := { s.regs with idx := s.regs.idx + 1, sst := .req } } := if_pos h

/-- The end of the run (R123, R124). -/
theorem advanceSlot_last {s : State} (h : ¬ s.regs.idx + 1 < s.regs.n) :
    advanceSlot s =
      { s with
        regs := { s.regs with idx := s.regs.idx + 1, sst := .idle, lastErr := .ok }
        replies := s.replies ++ [.sampled (runResult s.regs)] } := if_neg h

/-- Settles O36: the clock is short of the slot's end or not, and the slot was the last or not. -/
theorem paceRowWaitsAndAdvances : Obligations.PaceRowWaitsAndAdvances := by
  rintro s rest _ hs hb rfl
  have hover := slotOver_iff { s with agenda := rest }
  rw [step_pace hb hs]
  refine ⟨fun h => ?_, fun h hn => ?_, fun h hn => ?_⟩
  · exact congrArg _ (paceSlot_held (Bool.eq_false_iff.mpr (hover.not.mpr (not_le.mpr h))))
  · exact congrArg _ ((paceSlot_over (hover.mpr h)).trans (advanceSlot_next hn))
  · exact congrArg _ ((paceSlot_over (hover.mpr h)).trans (advanceSlot_last hn))

/-! ### Whose move it is on an empty agenda (R188) -/

theorem engineHeld_of_no_session {s : State} (h : s.session = none) : engineHeld s = false := by
  simp [engineHeld, h]

theorem held_idle {s : State} (h : s.regs.sst = .idle) : held s = engineHeld s := by simp only [held, h]

/-- Settles O46: the clock, the block and nobody, in the order in which an empty agenda asks. -/
theorem emptyAgendaLeavesTheMoveToTheBlock : Obligations.EmptyAgendaLeavesTheMoveToTheBlock := by
  intro s ha
  rw [step_nil ha]
  refine ⟨fun hs hfree => ?_, fun hheld => ?_, fun hs hsession => ?_⟩
  · have hblock : step { s with agenda := [.block] } = .next (blockMove s) := by
      rw [step_block rfl, ← ha]
    rw [hblock, restTurn, hfree, if_neg Bool.false_ne_true, if_pos hs]
  · refine ⟨(clockMove s).now, s.draws + 1, le_clockMove_now s, ?_⟩
    rw [← clockMove_eq]
    exact if_pos hheld
  · have hfree : held s = false := (held_idle hs).trans (engineHeld_of_no_session hsession)
    rw [restTurn, hfree, if_neg Bool.false_ne_true, if_neg (not_not.mpr hs), engineTurn_idle hsession]

end Sys2Proof.Machine
end

section
/-!
PROOFS. What every step keeps of a run: it ends by its result, a TransportError or a reset (R128), and its slots are not
early (R130).
-/

namespace Sys2Proof.Machine

/-! ### What a read and LDADDR leave alone (R31, R40) -/

theorem rxRead_regs {who : Agent} {s s' : State} {a : RxAnswer} (h : rxRead who s = (a, s')) : s'.regs = s.regs := by
  rw [(rxRead_spec h).1]

theorem rxRead_now {who : Agent} {s s' : State} {a : RxAnswer} (h : rxRead who s = (a, s')) : s'.now = s.now := by
  rw [(rxRead_spec h).1]

theorem loadAddress_sst (a : Int) (s : State) : (loadAddress a s).regs.sst = s.regs.sst := by
  obtain ⟨x, v, e, h⟩ := loadAddress_writes a s
  rw [h]

theorem loadAddress_now (a : Int) (s : State) : (loadAddress a s).now = s.now := by
  obtain ⟨-, h⟩ | ⟨-, -, h⟩ | ⟨-, -, h⟩ := loadAddress_cases a s <;> rw [h] <;> rfl

/-! ### How a run ends (R128) -/

/-- Between the states before and after a move a run has ended with its result or with TransportError, if it has ended
at all (R123, R126). -/
def EndsWithOutcome (s t : State) : Prop :=
  t.regs.sst = .idle →
    (∃ r, t.replies = s.replies ++ [.sampled r] ∧ t.regs.idx = s.regs.idx + 1) ∨
      t.replies = s.replies ++ [.err .transportError]

theorem EndsWithOutcome.of_running {s t : State} (h : t.regs.sst ≠ .idle) : EndsWithOutcome s t :=
  fun hi => absurd hi h

/-- Of the rows of the transition table S_ACC ends no run, S_REQ and S_RESP end it with TransportError, and S_PACE with
the result (R116). -/
theorem blockMove_endsWithOutcome {s : State} (hs : s.regs.sst ≠ .idle) : EndsWithOutcome s (blockMove s) := by
  unfold blockMove
  split
  case h_1 hi => exact absurd hi hs
  case h_2 =>
    obtain ⟨a, draws, -, ⟨-, h⟩ | ⟨-, h⟩⟩ := writeRequest_eq s <;> rw [h]
    · exact .of_running nofun
    · exact fun _ => .inr rfl
  case h_3 =>
    obtain ⟨a, draws, -, ⟨b, -, h⟩ | ⟨-, h⟩⟩ := readResponse_eq s <;> rw [h]
    · exact .of_running nofun
    · exact fun _ => .inr rfl
  case h_4 => exact .of_running nofun
  case h_5 =>
    obtain ⟨-, h⟩ | ⟨-, -, h⟩ := paceSlot_cases s <;> rw [h]
    · exact .of_running hs
    · obtain ⟨-, h⟩ | ⟨-, h⟩ := advanceSlot_cases s <;> rw [h]
      · exact .of_running nofun
      · exact fun _ => .inl ⟨_, rfl, rfl⟩

/-- During a run no operation the host asks for moves SST: SAMPLE answers Busy (R110). -/
theorem exec_sst {i : Instr} {s t : State} (h : exec i s = .next t) (hs : s.regs.sst ≠ .idle) :
    t.regs.sst = s.regs.sst := by
  obtain ⟨-, v, rfl⟩ | ⟨a, -, rfl⟩ | ⟨d, f, -, rfl⟩ := exec_cases h
  · rfl
  · exact loadAddress_sst a s
  · rw [startSample_busy d f hs, deliver_regs]

/-- Settles O38: of the cases of a step only the block's row and reset move SST during a run. -/
theorem runsEndByResultFailureOrReset : Obligations.RunsEndByResultFailureOrReset := by
  intro s t h hs ht
  have hrunning (hsame : t.regs.sst = s.regs.sst) : False := hs (hsame ▸ ht)
  cases step_case h with
  | asked r rest i _ _ h => exact (hrunning (exec_sst (s := afterTurn s) h hs)).elim
  | unknown r rest _ h => exact (hrunning (h ▸ rfl)).elim
  | block h => subst h; exact .inr (blockMove_endsWithOutcome (s := afterTurn s) hs ht)
  | clockAlone _ h => exact (hrunning (h ▸ rfl)).elim
  | clock reading rest _ h => exact (hrunning (h ▸ rfl)).elim
  | reset rest hs' _ => exact .inl ⟨rest, hs'⟩
  | drain a s' hx h => subst h; exact (hrunning (congrArg Regs.sst (rxRead_regs hx :))).elim
  | register no h => exact (hrunning (h ▸ rfl)).elim
  | apart h => exact (hrunning (congrArg Regs.sst h.regs)).elim
  | window d f h =>
    rw [startSample_busy (s := afterTurn s) d f hs] at h
    exact (hrunning (congrArg Regs.sst h.regs)).elim

/-! ### The pace (R130) -/

theorem onSchedule_of_idle {s : State} (h : s.regs.sst = .idle) : OnSchedule s := fun hs => absurd h hs

/-- Within a slot nothing but the clock matters, and a clock that goes forward keeps the pace. -/
theorem OnSchedule.of_sameSlot {s t : State} (h : OnSchedule s) (hs : s.regs.sst = .idle → t.regs.sst = .idle)
    (hidx : t.regs.idx = s.regs.idx) (ht0 : t.regs.t0 = s.regs.t0) (hivl : t.regs.ivl = s.regs.ivl)
    (hnow : s.now ≤ t.now) : OnSchedule t := by
  intro ht
  rw [hidx, ht0, hivl]
  exact le_trans (h fun hi => ht (hs hi)) hnow

theorem OnSchedule.of_sameRegs {s t : State} (h : OnSchedule s) (hr : t.regs = s.regs) (hnow : s.now ≤ t.now) :
    OnSchedule t :=
  h.of_sameSlot (by rw [hr]; exact id) (by rw [hr]) (by rw [hr]) (by rw [hr]) hnow

/-- Slot 0 starts at T0, which is the clock's reading (R115). -/
theorem onSchedule_startRun (n : Nat) (f : Time) (s : State) : OnSchedule (startRun n f s) := by
  intro _
  simp

theorem OnSchedule.startSample {s : State} (h : OnSchedule s) (d f : Time) :
    OnSchedule (Machine.startSample d f s) := by
  by_cases hs : s.regs.sst = .idle
  · obtain ⟨n, -, hn⟩ | ⟨e, -, he⟩ := startSample_cases d f s
    · exact hn ▸ onSchedule_startRun n f s
    · exact onSchedule_of_idle (he ▸ raise_sampler_sst hs e)
  · rw [startSample_busy d f hs]
    exact h

theorem OnSchedule.exec {i : Instr} {s t : State} (h : OnSchedule s) (ht : exec i s = .next t) : OnSchedule t := by
  obtain ⟨-, v, rfl⟩ | ⟨a, -, rfl⟩ | ⟨d, f, -, rfl⟩ := exec_cases ht
  · exact h
  · obtain ⟨x, v, e, hr⟩ := loadAddress_writes a s
    exact h.of_sameSlot (by rw [hr]; exact id) (by rw [hr]) (by rw [hr]) (by rw [hr]) (loadAddress_now a s).ge
  · exact h.startSample d f

/-- Slot `IDX + 1` starts when the clock has reached the end of slot `IDX`, which is `T0 + (IDX + 1) * IVL` (R121). -/
theorem onSchedule_nextSlot {s : State} (hr : s.regs.Sound) (hs : s.regs.sst ≠ .idle)
    (hnow : slotEnd s.regs.t0 s.regs.ivl s.regs.idx.toNat ≤ s.now) :
    OnSchedule { s with regs := { s.regs with idx := s.regs.idx + 1, sst := .req } } := by
  intro _
  dsimp only
  rw [hr.toNat_idx_succ hs]
  push_cast
  exact hnow

theorem OnSchedule.blockMove {s : State} (h : OnSchedule s) (hr : s.regs.Sound) :
    OnSchedule (Machine.blockMove s) := by
  unfold Machine.blockMove
  split
  case h_1 => exact h
  case h_2 hs =>
    obtain ⟨a, draws, -, ⟨-, h'⟩ | ⟨-, h'⟩⟩ := writeRequest_eq s <;> rw [h']
    · exact h.of_sameSlot (by simp [hs]) rfl rfl rfl le_rfl
    · exact onSchedule_of_idle rfl
  case h_3 hs =>
    obtain ⟨a, draws, -, ⟨b, -, h'⟩ | ⟨-, h'⟩⟩ := readResponse_eq s <;> rw [h']
    · exact h.of_sameSlot (by simp [hs]) rfl rfl rfl le_rfl
    · exact onSchedule_of_idle rfl
  case h_4 hs => exact h.of_sameSlot (by simp [hs]) rfl rfl rfl le_rfl
  case h_5 hs =>
    obtain ⟨-, h'⟩ | ⟨-, hnow, h'⟩ := paceSlot_cases s <;> rw [h']
    · exact h
    · obtain ⟨-, h'⟩ | ⟨-, h'⟩ := advanceSlot_cases s <;> rw [h']
      · exact onSchedule_nextSlot hr (by simp [hs]) hnow
      · exact onSchedule_of_idle rfl

/-- Settles O41: by the cases of a step; the premise on the clock is met by its turn alone. -/
theorem stepsKeepThePace : Obligations.StepsKeepThePace := by
  intro s t hr h hclock hstep
  have h' : OnSchedule (afterTurn s) := h
  cases step_case hstep with
  | asked r rest i _ _ ht => exact h'.exec ht
  | unknown r rest _ ht => exact ht ▸ h'
  | block ht => exact ht ▸ h'.blockMove hr
  | clockAlone _ ht => exact ht ▸ h.of_sameRegs rfl (le_clockMove_now s)
  | clock reading rest ha ht => exact ht ▸ h'.of_sameRegs rfl (hclock reading rest ha)
  | reset rest _ ht => exact ht ▸ onSchedule_of_idle rfl
  | drain a s' hx ht => exact ht ▸ h'.of_sameRegs (rxRead_regs hx :) (rxRead_now hx :).ge
  | register no ht => exact ht ▸ h'
  | apart ht => exact h'.of_sameRegs ht.regs ht.now
  | window d f ht => exact (h'.startSample d f).of_sameRegs ht.regs ht.now

end Sys2Proof.Machine
end

section
/-!
PROOFS. A whole run (R125): the invariant that its slots keep, in whatever order the block and the clock move, the
result it hands over (R129, R123), and that it ends when the clock progresses (R128, R172).
-/

namespace Sys2Proof.Machine

/-! ### Sums over responses (R129, R47) -/

section sums

variable (checkMarker : Bool) (bs : List Bytes) (b : Bytes)

theorem speedSum_concat : speedSum checkMarker (bs ++ [b]) = speedSum checkMarker bs + speedOf checkMarker b := by
  simp [speedSum]

theorem lostCount_concat :
    lostCount checkMarker (bs ++ [b]) = lostCount checkMarker bs + if substituted checkMarker b then 1 else 0 := by
  simp [lostCount, List.countP_cons]

theorem slotAccesses_concat (timeout : Time) (request : Bytes) :
    slotAccesses timeout request (bs ++ [b]) =
      slotAccesses timeout request bs ++ [.wrote .block request .accepted] ++ [.read .block timeout (.bytes b)] := by
  simp [slotAccesses]

theorem speedSum_bounds :
    -32768 * (bs.length : Int) ≤ speedSum checkMarker bs ∧ speedSum checkMarker bs ≤ 32767 * (bs.length : Int) := by
  induction bs using List.reverseRecOn with
  | nil => simp [speedSum]
  | append_singleton bs b ih =>
    obtain ⟨hl, hu⟩ := speedOf_bounds checkMarker b
    rw [speedSum_concat, List.length_append, List.length_singleton]
    omega

theorem lostCount_le : lostCount checkMarker bs ≤ bs.length := List.countP_le_length

end sums

/-- The result of a run over its responses (R124, R129). -/
def resultOf (checkMarker : Bool) (bs : List Bytes) : SampleResult where
  sum := speedSum checkMarker bs
  count := bs.length
  mean := (speedSum checkMarker bs : Rat) / (bs.length : Rat)
  errcnt := lostCount checkMarker bs

/-! ### The ledger of a run -/

/-- Where a run stands: its slot, the responses summed, the accesses made, the answers to come and what it has handed
over. -/
structure Ledger where
  slot : Nat
  summed : List Bytes
  made : List Access
  tx : List TxAnswer
  rx : List RxAnswer
  out : List Reply

/-- `x` is a state of the run that began in `s`, with the ledger `l`. -/
structure Ledger.Holds (l : Ledger) (s x : State) : Prop where
  cfg : x.cfg = s.cfg
  addr : x.regs.addr = s.regs.addr
  n : x.regs.n = s.regs.n
  t0 : x.regs.t0 = s.regs.t0
  ivl : x.regs.ivl = s.regs.ivl
  idx : x.regs.idx.toNat = l.slot
  acc : x.regs.acc.toInt = speedSum s.cfg.checkMarker l.summed
  errcnt : x.regs.errcnt.toNat = lostCount s.cfg.checkMarker l.summed
  trace : x.trace = s.trace ++ l.made
  txq : x.txq = l.tx
  rxq : x.rxq = l.rx
  replies : x.replies = s.replies ++ l.out

namespace Ledger.Holds

variable {l : Ledger} {s x : State} (h : l.Holds s x)
include h

/-- The ledger does not speak of the clock or of the turns to come (R129). -/
theorem withTurns (reading : Time) (turns : List Turn) : l.Holds s { x with now := reading, agenda := turns } :=
  { h with }

theorem writeRequest {q : List TxAnswer} (hq : l.tx = .accepted :: q) :
    ({ l with
        made := l.made ++ [.wrote .block (requestFrame s.cfg.subcodePos s.regs.addr) .accepted]
        tx := q } : Ledger).Holds s (writeRequest x) := by
  rw [writeRequest_accepted (h.txq.trans hq)]
  exact { h with txq := rfl, trace := by simp [h.trace, h.cfg, h.addr] }

theorem readResponse {b : Bytes} {q : List RxAnswer} (hq : l.rx = .bytes b :: q) :
    ({ l with made := l.made ++ [.read .block s.cfg.readTimeout.val (.bytes b)], rx := q } : Ledger).Holds s
      (readResponse x) := by
  rw [readResponse_bytes (h.rxq.trans hq)]
  exact { h with rxq := rfl, trace := by simp [h.trace, h.cfg] }

/-- N is a 32-bit count, so neither ACC nor ERRCNT overflows (R19, R20, D16). -/
theorem accumulate (hl : l.summed.length < x.regs.n.toNat) :
    ({ l with summed := l.summed ++ [x.inHand] } : Ledger).Holds s (accumulate x) := by
  have hn := x.regs.n.isLt
  have hsum := speedSum_bounds s.cfg.checkMarker l.summed
  have hlost := lostCount_le s.cfg.checkMarker l.summed
  refine { h with acc := ?_, errcnt := ?_ }
  · simp only [Machine.accumulate]
    rw [toInt_acc_add (k := l.summed.length) (by omega) (h.acc ▸ hsum.1) (h.acc ▸ hsum.2) (speedOf_bounds _ _), h.acc,
      h.cfg, speedSum_concat]
  · simp only [Machine.accumulate]
    rw [h.cfg, lostCount_concat, ← h.errcnt]
    split
    · have := h.errcnt
      exact toNat_succ (by omega)
    · rfl

theorem toNat_idx_succ (hl : l.slot < x.regs.n.toNat) : (x.regs.idx + 1).toNat = l.slot + 1 := by
  have hn := x.regs.n.isLt
  rw [toNat_succ (by rw [h.idx]; omega), h.idx]

theorem nextSlot (hl : l.slot + 1 < x.regs.n.toNat) :
    ({ l with slot := l.slot + 1 } : Ledger).Holds s (advanceSlot x) ∧ (advanceSlot x).regs.sst = .req := by
  have hidx := h.toNat_idx_succ (by omega)
  rw [advanceSlot_next (by rw [BitVec.lt_def, hidx]; exact hl)]
  exact ⟨{ h with idx := hidx }, rfl⟩

theorem runResult_eq (hn : x.regs.n.toNat = l.summed.length) :
    runResult x.regs = resultOf s.cfg.checkMarker l.summed := by
  simp only [runResult, resultOf, h.acc, h.errcnt, hn]

theorem result (hl : l.slot + 1 = x.regs.n.toNat) :
    ({ l with slot := l.slot + 1, out := l.out ++ [.sampled (runResult x.regs)] } : Ledger).Holds s (advanceSlot x) ∧
      (advanceSlot x).regs.sst = .idle ∧ (advanceSlot x).regs.lastErr = .ok := by
  have hidx := h.toNat_idx_succ (by omega)
  rw [advanceSlot_last (by rw [BitVec.lt_def, hidx]; omega)]
  exact ⟨{ h with idx := hidx, replies := by simp [h.replies] }, rfl, rfl⟩

end Ledger.Holds

/-! ### The rows of a slot -/

/-- The accesses of the slots answered with `bs`, in the run that began in `s` (R47). -/
def runAccesses (s : State) (bs : List Bytes) : List Access :=
  slotAccesses s.cfg.readTimeout.val (requestFrame s.cfg.subcodePos s.regs.addr) bs

/-- The ledger of the run that has ended, answered with `bs` (R123, R129). -/
def finalLedger (s : State) (tx : List TxAnswer) (rx : List RxAnswer) (bs : List Bytes) : Ledger where
  slot := bs.length
  summed := bs
  made := runAccesses s bs
  tx := tx
  rx := rx
  out := [.sampled (resultOf s.cfg.checkMarker bs)]

/-- The ledger in the row `st` of the slot that is answered with `b`, after `pre` and before `post`; in S_IDLE that of
the run that has ended with this slot. -/
def rowLedger (s : State) (tx : List TxAnswer) (rx : List RxAnswer) (pre : List Bytes) (b : Bytes)
    (post : List Bytes) (st : SamplerState) : Ledger :=
  let before : Ledger :=
    { slot := pre.length
      summed := pre
      made := runAccesses s pre
      tx := List.replicate (post.length + 1) .accepted ++ tx
      rx := (b :: post).map .bytes ++ rx
      out := [] }
  let written : Ledger :=
    { before with
      made := runAccesses s pre ++ [.wrote .block (requestFrame s.cfg.subcodePos s.regs.addr) .accepted]
      tx := List.replicate post.length .accepted ++ tx }
  let answered : Ledger := { written with made := runAccesses s (pre ++ [b]), rx := post.map .bytes ++ rx }
  match st with
  | .req => before
  | .resp => written
  | .acc => answered
  | .pace => { answered with summed := pre ++ [b] }
  | .idle => finalLedger s tx rx (pre ++ [b])

/-- `x` is a state of the run that began in `s`, in the row `st` of the slot that is answered with `b`. -/
structure AtRow (s : State) (tx : List TxAnswer) (rx : List RxAnswer) (pre : List Bytes) (b : Bytes)
    (post : List Bytes) (st : SamplerState) (x : State) : Prop where
  sst : x.regs.sst = st
  count : s.regs.n.toNat = pre.length + 1 + post.length
  ledger : (rowLedger s tx rx pre b post st).Holds s x
  inHand : st = .acc → x.inHand = b
  ended : st = .idle → post = [] ∧ x.regs.lastErr = .ok

namespace AtRow

variable {s x : State} {tx : List TxAnswer} {rx : List RxAnswer} {pre : List Bytes} {b b' : Bytes}
  {post : List Bytes} {st : SamplerState}

theorem withTurns (h : AtRow s tx rx pre b post st x) (reading : Time) (turns : List Turn) :
    AtRow s tx rx pre b post st { x with now := reading, agenda := turns } :=
  { h with ledger := h.ledger.withTurns reading turns }

theorem write (h : AtRow s tx rx pre b post .req x) : AtRow s tx rx pre b post .resp (blockMove x) := by
  have hx := h.ledger.writeRequest rfl
  rw [blockMove_req h.sst]
  refine ⟨?_, h.count, hx, nofun, nofun⟩
  rw [writeRequest_accepted h.ledger.txq]

theorem read (h : AtRow s tx rx pre b post .resp x) : AtRow s tx rx pre b post .acc (blockMove x) := by
  have hx := h.ledger.readResponse rfl
  rw [blockMove_resp h.sst]
  refine ⟨?_, h.count, ?_, fun _ => ?_, nofun⟩
  · rw [readResponse_bytes h.ledger.rxq]
  · simp only [rowLedger, runAccesses, slotAccesses_concat]
    exact hx
  · rw [readResponse_bytes h.ledger.rxq]

/-- N counts the slots behind, the slot in progress and the slots to come (R115). -/
theorem toNat_n (h : AtRow s tx rx pre b post st x) : x.regs.n.toNat = pre.length + 1 + post.length := by
  rw [h.ledger.n, h.count]

theorem accumulate (h : AtRow s tx rx pre b post .acc x) : AtRow s tx rx pre b post .pace (blockMove x) := by
  have hx := h.ledger.accumulate (by rw [h.toNat_n]; simp only [rowLedger]; omega)
  rw [h.inHand rfl] at hx
  rw [blockMove_acc h.sst]
  exact ⟨rfl, h.count, hx, nofun, nofun⟩

theorem next (h : AtRow s tx rx pre b (b' :: post) .pace x) (hover : slotOver x = true) :
    AtRow s tx rx (pre ++ [b]) b' post .req (blockMove x) := by
  have hcount := h.toNat_n
  rw [List.length_cons] at hcount
  obtain ⟨hx, hs⟩ := h.ledger.nextSlot (by rw [hcount]; simp only [rowLedger]; omega)
  rw [blockMove_pace h.sst, paceSlot_over hover]
  refine ⟨hs, ?_, ?_, nofun, nofun⟩
  · rw [← h.ledger.n, hcount, List.length_append, List.length_singleton]
    omega
  · simp only [rowLedger, List.length_append, List.length_singleton]
    exact hx

theorem last (h : AtRow s tx rx pre b [] .pace x) (hover : slotOver x = true) :
    AtRow s tx rx pre b [] .idle (blockMove x) := by
  have hcount := h.toNat_n
  rw [List.length_nil] at hcount
  have hresult := h.ledger.runResult_eq (by rw [hcount]; simp [rowLedger])
  obtain ⟨hx, hs, he⟩ := h.ledger.result (by rw [hcount]; rfl)
  rw [hresult] at hx
  rw [blockMove_pace h.sst, paceSlot_over hover]
  refine ⟨hs, h.count, ?_, nofun, fun _ => ⟨rfl, he⟩⟩
  simp only [rowLedger, finalLedger, List.length_append, List.length_singleton]
  exact hx

/-- The hold of the slot is for the run's own T0 and IVL (R121). -/
theorem slotOver_iff (h : AtRow s tx rx pre b post .pace x) :
    slotOver x = true ↔ deadline s.cfg.tick (slotEnd s.regs.t0 s.regs.ivl pre.length) ≤ x.now := by
  have hidx : x.regs.idx.toNat = pre.length := h.ledger.idx
  rw [Machine.slotOver_iff, h.ledger.cfg, h.ledger.t0, h.ledger.ivl, hidx]

end AtRow

/-! ### A run with the block and the clock moving in any order (R129) -/

/-- `x` is a state of the run that began in `s` and is answered with `bs`, or the state in which it has ended. -/
def InRun (s : State) (tx : List TxAnswer) (rx : List RxAnswer) (bs : List Bytes) (x : State) : Prop :=
  ∃ pre b post st, bs = pre ++ b :: post ∧ AtRow s tx rx pre b post st x

/-- A run starts in slot 0, with all its answers to come (R115). -/
theorem AtRow.startRun {s : State} {tx : List TxAnswer} {rx : List RxAnswer} {b : Bytes} {post : List Bytes}
    (hlen : post.length + 1 ≤ 4294967295) (htx : s.txq = List.replicate (post.length + 1) .accepted ++ tx)
    (hrx : s.rxq = (b :: post).map .bytes ++ rx) (f : Time) :
    AtRow (Machine.startRun (post.length + 1) f s) tx rx [] b post .req (Machine.startRun (post.length + 1) f s) where
  sst := rfl
  count := by
    rw [startRun_regs, BitVec.toNat_ofNat]
    simp only [List.length_nil]
    omega
  ledger :=
    { cfg := rfl
      addr := rfl
      n := rfl
      t0 := rfl
      ivl := rfl
      idx := rfl
      acc := rfl
      errcnt := rfl
      trace := (List.append_nil _).symm
      txq := htx
      rxq := hrx
      replies := (List.append_nil _).symm }
  inHand := nofun
  ended := nofun

section run

variable {s x : State} {tx : List TxAnswer} {rx : List RxAnswer} {bs : List Bytes}

theorem InRun.startRun (hl : 1 ≤ bs.length) (hu : (bs.length : Int) ≤ 4294967295)
    (htx : s.txq = List.replicate bs.length .accepted ++ tx) (hrx : s.rxq = bs.map .bytes ++ rx) (f : Time) :
    InRun (Machine.startRun bs.length f s) tx rx bs (Machine.startRun bs.length f s) := by
  cases bs with
  | nil => cases hl
  | cons b post => exact ⟨[], b, post, .req, rfl, .startRun (by exact_mod_cast hu) htx hrx f⟩

theorem InRun.withTurns (h : InRun s tx rx bs x) (reading : Time) (turns : List Turn) :
    InRun s tx rx bs { x with now := reading, agenda := turns } := by
  obtain ⟨pre, b, post, st, hbs, h⟩ := h
  exact ⟨pre, b, post, st, hbs, h.withTurns reading turns⟩

theorem InRun.blockMove (h : InRun s tx rx bs x) : InRun s tx rx bs (blockMove x) := by
  obtain ⟨pre, b, post, st, hbs, h⟩ := h
  cases st with
  | idle =>
    rw [blockMove_idle h.sst]
    exact ⟨pre, b, post, .idle, hbs, h⟩
  | req => exact ⟨pre, b, post, .resp, hbs, h.write⟩
  | resp => exact ⟨pre, b, post, .acc, hbs, h.read⟩
  | acc => exact ⟨pre, b, post, .pace, hbs, h.accumulate⟩
  | pace =>
    cases hover : slotOver x with
    | false =>
      rw [blockMove_pace h.sst, paceSlot_held hover]
      exact ⟨pre, b, post, .pace, hbs, h⟩
    | true =>
      cases post with
      | nil => exact ⟨pre, b, [], .idle, hbs, h.last hover⟩
      | cons b' post => exact ⟨pre ++ [b], b', post, .req, by simp [hbs], h.next hover⟩

/-- A move of the block takes no turn off the agenda. -/
@[simp] theorem blockMove_agenda (x : State) : (blockMove x).agenda = x.agenda := by
  unfold Machine.blockMove
  split
  case h_1 => rfl
  case h_2 => obtain ⟨a, draws, -, ⟨-, h⟩ | ⟨-, h⟩⟩ := writeRequest_eq x <;> rw [h]
  case h_3 => obtain ⟨a, draws, -, ⟨b, -, h⟩ | ⟨-, h⟩⟩ := readResponse_eq x <;> rw [h]
  case h_4 => rfl
  case h_5 =>
    obtain ⟨-, h⟩ | ⟨-, -, h⟩ := paceSlot_cases x <;> rw [h]
    obtain ⟨-, h⟩ | ⟨-, h⟩ := advanceSlot_cases x <;> rw [h]
    rfl

/-- One more step, when the next one is known. -/
theorem run_succ {y : State} (k : Nat) (h : step x = .next y) :
    Host.Core.run core (k + 1) x = Host.Core.run core k y := by
  have h' : core.step x = .next y := h
  simp only [Host.Core.run, h']

/-- The turns of a run are the block's and the clock's. -/
def RunTurn (t : Turn) : Prop := t = .block ∨ ∃ reading, t = .clock reading

theorem InRun.step (h : InRun s tx rx bs x) {t : Turn} {rest : List Turn} (ha : x.agenda = t :: rest)
    (ht : RunTurn t) : ∃ y, Machine.step x = .next y ∧ InRun s tx rx bs y ∧ y.agenda = rest := by
  obtain rfl | ⟨reading, rfl⟩ := ht
  · exact ⟨_, step_block ha, (h.withTurns x.now rest).blockMove, blockMove_agenda _⟩
  · exact ⟨_, step_cons ha, h.withTurns reading rest, rfl⟩

theorem InRun.run (h : InRun s tx rx bs x) (hturns : ∀ t ∈ x.agenda, RunTurn t) :
    ∃ y, Host.Core.run core x.agenda.length x = .next y ∧ InRun s tx rx bs y := by
  induction ha : x.agenda generalizing x with
  | nil => exact ⟨x, rfl, h⟩
  | cons t rest ih =>
    rw [ha, List.forall_mem_cons] at hturns
    obtain ⟨ht, hrest⟩ := hturns
    obtain ⟨y, hy, hrun, hagenda⟩ := h.step ha ht
    rw [List.length_cons, run_succ _ hy]
    exact ih hrun (hagenda ▸ hrest) hagenda

/-- A run that has ended has ended Ok, with the ledger of all its slots (R123). -/
theorem InRun.ended (h : InRun s tx rx bs x) (hx : x.regs.sst = .idle) :
    x.regs.lastErr = .ok ∧ x.regs.n.toNat = bs.length ∧ (finalLedger s tx rx bs).Holds s x := by
  obtain ⟨pre, b, post, st, rfl, h⟩ := h
  obtain rfl : st = .idle := h.sst.symm.trans hx
  obtain ⟨rfl, he⟩ := h.ended rfl
  refine ⟨he, ?_, h.ledger⟩
  rw [h.toNat_n, List.length_append]
  rfl

end run

/-- SAMPLE starts the run (R110, R115). -/
theorem exec_sample_starts {d f : Time} {s : State} {n : Nat} (hs : s.regs.sst = .idle) (hv : s.regs.addrV = true)
    (hf : 0 ≤ f) (hl : 1 ≤ n) (hu : (n : Int) ≤ 4294967295) (hn : (d * f).floor = n) :
    exec (.sample d f) s = .next (startRun n f s) := by
  have hcount : sampleCount d f = n := hn
  have hcheck := entryCheck_passes (d := d) hs hv (by omega) (by rw [hcount]; exact hu) hf
  rw [hcount, Int.toNat_natCast] at hcheck
  exact congrArg Host.Outcome.next (startSample_ok hcheck)

/-- Settles O37: the turns keep the run's invariant, and the ledger of a run that has ended is the statement's. -/
theorem sampleReturnsTheMeanOfItsReadings : Obligations.SampleReturnsTheMeanOfItsReadings := by
  intro d f s bs tx rx hs hv hf hl hu hn hturns htx hrx
  obtain ⟨t, hrun, ht⟩ := (InRun.startRun hl hu htx hrx f).run hturns
  refine ⟨_, t, exec_sample_starts hs hv hf hl hu hn, hrun, fun hidle => ?_⟩
  obtain ⟨he, hcount, hend⟩ := ht.ended hidle
  have hidx : t.regs.idx = t.regs.n := BitVec.eq_of_toNat_eq (hend.idx.trans hcount.symm)
  exact ⟨he, hcount, hidx, hend.acc, hend.errcnt, hend.addr, hend.replies, hend.trace, hend.txq, hend.rxq⟩

/-! ### A run with a clock that progresses (R128, R172) -/

theorem pacedTurns_cons (r : Time) (readings : List Time) :
    pacedTurns (r :: readings) = .block :: .block :: .block :: .clock r :: .block :: pacedTurns readings := rfl

theorem length_pacedTurns (readings : List Time) : (pacedTurns readings).length = 5 * readings.length := by
  simp [pacedTurns, Nat.mul_comm]

theorem runTurn_of_mem_pacedTurns {readings : List Time} : ∀ t ∈ pacedTurns readings, RunTurn t := by
  intro t ht
  obtain ⟨r, -, hr⟩ := List.mem_flatMap.mp ht
  simp only [List.mem_cons, List.not_mem_nil, or_false] at hr
  obtain h | h | h | h | h := hr
  · exact .inl h
  · exact .inl h
  · exact .inl h
  · exact .inr ⟨r, h⟩
  · exact .inl h

theorem slotEnd_add (t0 ivl : Time) (k j : Nat) : slotEnd (t0 + k * ivl) ivl j = slotEnd t0 ivl (k + j) := by
  simp only [slotEnd]
  push_cast
  ring

section reaches

variable {tick : Option PosTime} {t0 ivl r : Time} {readings : List Time} {k : Nat}
  (h : ClockReaches tick (t0 + k * ivl) ivl (r :: readings))
include h

/-- Of readings that reach the deadlines from slot `k` on, the first reaches the deadline of slot `k` (R172). -/
theorem ClockReaches.head : deadline tick (slotEnd t0 ivl k) ≤ r := by
  have h0 := h 0 r rfl
  rwa [slotEnd_add] at h0

/-- And the others reach the deadlines from the next slot on. -/
theorem ClockReaches.tail : ClockReaches tick (t0 + (k + 1 : Nat) * ivl) ivl readings := by
  intro j q hq
  have hj := h (j + 1) q hq
  rw [slotEnd_add] at hj ⊢
  rwa [Nat.add_assoc, Nat.add_comm 1 j]

end reaches

namespace AtRow

variable {s x : State} {tx : List TxAnswer} {rx : List RxAnswer} {pre : List Bytes} {b : Bytes} {post : List Bytes}
  {st st' : SamplerState} {r : Time} {rest : List Turn}

/-- A turn of the block takes its row, whatever the clock and the agenda are. -/
theorem blockTurn (h : AtRow s tx rx pre b post st x)
    (hmove : ∀ z, AtRow s tx rx pre b post st z → AtRow s tx rx pre b post st' (blockMove z))
    (ha : x.agenda = .block :: rest) :
    ∃ y, step x = .next y ∧ AtRow s tx rx pre b post st' y ∧ y.agenda = rest :=
  ⟨_, step_block ha, hmove _ (h.withTurns x.now rest), blockMove_agenda _⟩

/-- Four turns of a slot lead from S_REQ to S_PACE, with the clock at the reading that was set. -/
theorem paced (h : AtRow s tx rx pre b post .req x)
    (ha : x.agenda = .block :: .block :: .block :: .clock r :: rest) (k : Nat) :
    ∃ y, Host.Core.run core (k + 4) x = Host.Core.run core k y ∧ AtRow s tx rx pre b post .pace y ∧ y.now = r ∧
      y.agenda = rest := by
  obtain ⟨x1, hs1, h1, ha1⟩ := h.blockTurn (fun _ => write) ha
  obtain ⟨x2, hs2, h2, ha2⟩ := h1.blockTurn (fun _ => read) ha1
  obtain ⟨x3, hs3, h3, ha3⟩ := h2.blockTurn (fun _ => accumulate) ha2
  have hs4 : step x3 = .next { x3 with now := r, agenda := rest } := step_cons ha3
  exact ⟨_, by rw [run_succ _ hs1, run_succ _ hs2, run_succ _ hs3, run_succ _ hs4], h3.withTurns r rest, rfl, rfl⟩

/-- With readings that reach the deadlines, five turns a slot end the run (R128, R172). -/
theorem runs_to_end {readings : List Time} (h : AtRow s tx rx pre b post .req x)
    (hlen : readings.length = post.length + 1)
    (hreach : ClockReaches s.cfg.tick (s.regs.t0 + pre.length * s.regs.ivl) s.regs.ivl readings)
    (ha : x.agenda = pacedTurns readings) :
    ∃ y, Host.Core.run core (5 * readings.length) x = .next y ∧ y.regs.sst = .idle ∧ y.agenda = [] := by
  induction readings generalizing x pre b post with
  | nil => cases hlen
  | cons r readings ih =>
    obtain ⟨y, hrun, hy, hnow, hya⟩ := h.paced ha (5 * readings.length + 1)
    have hover : slotOver { y with agenda := pacedTurns readings } = true :=
      (hy.withTurns y.now _).slotOver_iff.mpr (hnow ▸ hreach.head)
    rw [List.length_cons, Nat.mul_succ, hrun, run_succ _ (step_block hya)]
    have hlen' : readings.length = post.length := Nat.succ.inj hlen
    cases post with
    | nil =>
      have hlast := (hy.withTurns y.now (pacedTurns readings)).last hover
      obtain rfl : readings = [] := List.eq_nil_of_length_eq_zero hlen'
      exact ⟨_, rfl, hlast.sst, blockMove_agenda _⟩
    | cons b' post =>
      have hnext := (hy.withTurns y.now (pacedTurns readings)).next hover
      refine ih hnext hlen' ?_ (blockMove_agenda _)
      rw [List.length_append, List.length_singleton]
      exact hreach.tail

end AtRow

/-- Settles O55: the run ends by its turns, and what it ends with is said of every run that ends. -/
theorem runsEndWhenTheClockAdvances : Obligations.RunsEndWhenTheClockAdvances := by
  intro d f s bs readings tx rx hs hv hf hl hu hn hlen hreach ha htx hrx
  obtain ⟨b, post, rfl⟩ : ∃ b post, bs = b :: post := List.exists_cons_of_length_pos hl
  have hstart := AtRow.startRun (by exact_mod_cast hu) htx hrx f
  have hfirst : ClockReaches s.cfg.tick (s.now + (0 : Nat) * (1 / f)) (1 / f) readings := by
    rwa [Nat.cast_zero, zero_mul, add_zero]
  obtain ⟨t, hrun, hidle, hagenda⟩ := hstart.runs_to_end hlen hfirst ha
  rw [hlen] at hrun
  have hturns : ∀ t ∈ s.agenda, RunTurn t := ha ▸ runTurn_of_mem_pacedTurns
  obtain ⟨t', hrun', ht⟩ := (InRun.startRun hl hu htx hrx f).run hturns
  rw [startRun_agenda, ha, length_pacedTurns, hlen] at hrun'
  obtain rfl : t = t' := Host.Outcome.next.inj (hrun.symm.trans hrun')
  obtain ⟨he, hcount, hend⟩ := ht.ended hidle
  exact ⟨_, t, exec_sample_starts hs hv hf hl hu hn, hrun, hagenda, hidle, he, hcount,
    BitVec.eq_of_toNat_eq (hend.idx.trans hcount.symm)⟩

end Sys2Proof.Machine
end

section
/-!
PROOFS. The acts of the calibration engine (44_host_calibration_engine.md): its tables (R141 to R144), the frames it
sends and what an answer leads to (R137, R145, R149), its sampling window (R140, R148), and the statements about one
act that follow.
-/

namespace Sys2Proof.Machine

/-! ### Differences, steps and offsets (R141 to R144) -/

theorem magnitude_eq_abs (q : Rat) : magnitude q = |q| := by
  unfold magnitude
  split
  · exact (abs_of_neg ‹_›).symm
  · exact (abs_of_nonneg (not_lt.mp ‹_›)).symm

theorem speedDifference_eq (fwd rev : Rat) : speedDifference fwd rev = |fwd| - |rev| := by
  rw [speedDifference, magnitude_eq_abs, magnitude_eq_abs]

/-- The table, row by row (R143). -/
theorem stepSize_eq (a : Rat) :
    stepSize a = if 50 < a then 20 else if 30 < a then 15 else if 25 < a then 10 else if 15 < a then 5 else 2 := by
  simp only [stepSize, Config.stepRows, Config.stepOtherwise, List.find?_cons, List.find?_nil]
  by_cases h50 : 50 < a
  · simp [h50]
  by_cases h30 : 30 < a
  · simp [h50, h30]
  by_cases h25 : 25 < a
  · simp [h50, h30, h25]
  by_cases h15 : 15 < a <;> simp [h50, h30, h25, h15]

/-- Settles O49: each clause fails the rows above its own. -/
theorem stepSizeTable : Obligations.StepSizeTable := by
  intro a
  rw [stepSize_eq]
  refine ⟨fun h => if_pos h, fun h h50 => ?_, fun h h30 => ?_, fun h h25 => ?_, fun h15 => ?_⟩
  · rw [if_neg h50.not_gt, if_pos h]
  · rw [if_neg (by linarith), if_neg h30.not_gt, if_pos h]
  · rw [if_neg (by linarith), if_neg (by linarith), if_neg h25.not_gt, if_pos h]
  · rw [if_neg (by linarith), if_neg (by linarith), if_neg (by linarith), if_neg h15.not_gt]

/-- The direction of the adjustment (R144). -/
theorem nextOffset_eq {offset z : Int} {diff : Rat} (hfaster : 0 < diff → z = offset - stepSize |diff|)
    (hslower : ¬ 0 < diff → z = offset + stepSize |diff|) : nextOffset offset diff = z := by
  unfold nextOffset
  rw [magnitude_eq_abs]
  split
  · exact (hfaster ‹_›).symm
  · exact (hslower ‹_›).symm

/-! ### Sends (R137, R149, R152) -/

theorem stopFrame_ok {r : Regs} (hv : r.addrV = true) : stopFrame r = .ok [0xAA, r.addr, 0xC0, 0x00, 0x00, 0x00] :=
  needAddr_valid hv _

theorem signedFrame_ok {r : Regs} {v : Int} (op : Byte) (hv : r.addrV = true) (hl : -32768 ≤ v) (hu : v ≤ 32767) :
    signedFrame op v r = .ok [0xAA, r.addr, op, 0x00, lo8 (u16 v), hi8 (u16 v)] :=
  needAddr_check_ok hv ((inS16_iff v).mpr ⟨hl, hu⟩)

section sends

variable {s : State} {a : TxAnswer} {q : List TxAnswer}

/-- With an address loaded a session that fails writes one stop, whatever its answer (R149, R152). -/
theorem abandon_loaded (e : Ending) (c : Session) (hv : s.regs.addrV = true) (hq : s.txq = a :: q) :
    abandon e c s =
      { s with
        txq := q
        session := none
        ended := some (e, c)
        trace := s.trace ++ [.wrote .host [0xAA, s.regs.addr, 0xC0, 0x00, 0x00, 0x00] a] } := by
  simp only [abandon, stopFrame_ok hv, txWrite_fixed .host _ hq, endSession]

theorem hostSend_accepted (b : Bytes) (c : Session) (andThen : State → State) (hq : s.txq = .accepted :: q) :
    hostSend (.ok b) c andThen s =
      .next (andThen { s with txq := q, trace := s.trace ++ [.wrote .host b .accepted] }) := by
  simp only [hostSend, txWrite_fixed .host b hq]

/-- A send that fails is followed by the stop, whatever was to come after it (R149). -/
theorem hostSend_failed (b : Bytes) (c : Session) (andThen : State → State) (hv : s.regs.addrV = true)
    (hq : s.txq = .failed :: a :: q) :
    hostSend (.ok b) c andThen s =
      .next
        { s with
          txq := q
          session := none
          ended := some (.transportFailure, c)
          trace :=
            s.trace ++ [.wrote .host b .failed, .wrote .host [0xAA, s.regs.addr, 0xC0, 0x00, 0x00, 0x00] a] } := by
  simp only [hostSend, txWrite_fixed .host b hq]
  rw [abandon_loaded (s := { s with txq := a :: q, trace := s.trace ++ [.wrote .host b .failed] }) _ c hv rfl,
    List.append_assoc]
  rfl

end sends

/-! ### The engine's turn (R147) -/

theorem step_engine {s : State} {rest : List Turn} {c : Session} (hs : s.agenda = .engine :: rest)
    (hc : s.session = some c) : step s = engineMove c { s with agenda := rest } := by
  rw [step_cons hs]
  simp only [takeTurn, engineTurn, hc]

/-- The phases that send a speed, a stop being the speed 0 (R65, R137, R140). -/
def speedPhases (c : Session) (fwd rev : Rat) : List (Phase × Int) :=
  [(.stopA, 0), (.spinFwd, (c.params.testSpeed : Int)), (.stopB fwd, 0), (.spinRev fwd, -(c.params.testSpeed : Int)),
    (.stopC fwd rev, 0)]

section acts

variable {c : Session} (s : State)

theorem engineMove_evaluate {fwd rev : Rat} (hp : c.phase = .evaluate fwd rev) :
    engineMove c s = .next (evaluateTest c fwd rev s) := by
  simp only [engineMove, hp]

theorem engineMove_adjust {diff : Rat} (hp : c.phase = .adjust diff) : engineMove c s = adjustOffset c diff s := by
  simp only [engineMove, hp]

theorem engineMove_await {mark : Nat} {fwd : Rat} (hp : c.phase = .awaitFwd mark ∨ c.phase = .awaitRev mark fwd) :
    ∃ p, engineMove c s = .next (awaitWindow mark c p s) := by
  obtain hp | hp := hp <;> exact ⟨_, by simp only [engineMove, hp]; rfl⟩

theorem engineMove_measure {fwd : Rat} (hp : c.phase = .measureFwd ∨ c.phase = .measureRev fwd) :
    ∃ p, engineMove c s = .next (askWindow c p s) := by
  obtain hp | hp := hp <;> exact ⟨_, by simp only [engineMove, hp]; rfl⟩

theorem engineMove_speed {fwd rev : Rat} {v : Int} (h : (c.phase, v) ∈ speedPhases c fwd rev) :
    ∃ andThen, engineMove c s = hostSend (signedFrame Config.opSetspd v s.regs) c andThen s := by
  simp only [speedPhases, List.mem_cons, Prod.mk.injEq, List.not_mem_nil, or_false] at h
  obtain ⟨hp, rfl⟩ | ⟨hp, rfl⟩ | ⟨hp, rfl⟩ | ⟨hp, rfl⟩ | ⟨hp, rfl⟩ := h <;>
    exact ⟨_, by simp only [engineMove, hp]; rfl⟩

end acts

/-- A test speed that fits S16 fits it backwards too (R140). -/
theorem speedPhases_bounds {c : Session} {fwd rev : Rat} {p : Phase} {v : Int} (h : (p, v) ∈ speedPhases c fwd rev)
    (hu : (c.params.testSpeed : Int) ≤ 32767) : -32768 ≤ v ∧ v ≤ 32767 := by
  simp only [speedPhases, List.mem_cons, Prod.mk.injEq, List.not_mem_nil, or_false] at h
  omega

/-- Settles O52: the five phases are one send with five speeds. -/
theorem failedSendIsFollowedByAStop : Obligations.FailedSendIsFollowedByAStop := by
  intro s rest c a q fwd rev v hs hc hp hspeed hv hq
  obtain ⟨hl, hu⟩ := speedPhases_bounds hp hspeed
  obtain ⟨andThen, hmove⟩ := engineMove_speed { s with agenda := rest } hp
  rw [step_engine hs hc, hmove, signedFrame_ok _ hv hl hu]
  exact hostSend_failed _ c andThen hv hq

/-! ### The evaluation (R141, R142) -/

theorem evaluateTest_converged {c : Session} {fwd rev : Rat} (s : State) (h : |(|fwd| - |rev|)| ≤ 2) :
    evaluateTest c fwd rev s =
      endSession .converged { c with lastDifference := some (|fwd| - |rev|), converged := true } s := by
  simp only [evaluateTest, speedDifference_eq, magnitude_eq_abs]
  exact if_pos h

theorem evaluateTest_adjusts {c : Session} {fwd rev : Rat} (s : State) (h : 2 < |(|fwd| - |rev|)|) :
    evaluateTest c fwd rev s =
      continueWith { c with lastDifference := some (|fwd| - |rev|) } (.adjust (|fwd| - |rev|)) s := by
  simp only [evaluateTest, speedDifference_eq, magnitude_eq_abs]
  exact if_neg h.not_ge

/-- Settles O50: the two outcomes of the test. -/
theorem evaluationConvergesWithinTwo : Obligations.EvaluationConvergesWithinTwo := by
  rintro s rest c fwd rev diff hs hc hp rfl
  rw [step_engine hs hc, engineMove_evaluate _ hp]
  exact ⟨fun h => congrArg _ (evaluateTest_converged _ h), fun h => congrArg _ (evaluateTest_adjusts _ h)⟩

/-! ### The adjustment (R144 to R146) -/

section adjustment

variable {c : Session} {diff : Rat} {z : Int}

theorem adjustOffset_inRange (s : State) (hz : nextOffset c.zeroOffset.toInt diff = z) (hl : -32768 ≤ z)
    (hu : z ≤ 32767) :
    adjustOffset c diff s =
      hostSend (signedFrame Config.opSetzero z s.regs) { c with zeroOffset := u16 z }
        (closeIteration { c with zeroOffset := u16 z }) s := by
  subst hz
  exact if_pos ((inS16_iff _).mpr ⟨hl, hu⟩)

theorem adjustOffset_outOfRange (s : State) (hz : nextOffset c.zeroOffset.toInt diff = z)
    (h : z < -32768 ∨ 32767 < z) : adjustOffset c diff s = .refused (.offsetOutOfRange z) := by
  subst hz
  exact if_neg (Bool.eq_false_iff.mp ((inS16_eq_false_iff _).mpr h))

end adjustment

theorem closeIteration_next {c : Session} (s : State) (h : c.iteration < c.params.maxIter) :
    closeIteration c s = continueWith { c with iteration := c.iteration + 1 } .start s := if_pos h

theorem closeIteration_last {c : Session} (s : State) (h : c.params.maxIter ≤ c.iteration) :
    closeIteration c s = endSession .maxIterationsExceeded c s := if_neg h.not_gt

/-- Settles O51: the send is accepted, and what closes the iteration writes the session alone. -/
theorem adjustmentSendsTheNewOffset : Obligations.AdjustmentSendsTheNewOffset := by
  intro s rest c diff z q hs hc hp hv hq hfaster hslower hl hu
  have hstep : step s = .next (closeIteration { c with zeroOffset := u16 z }
      { s with
        agenda := rest
        txq := q
        trace := s.trace ++ [.wrote .host [0xAA, s.regs.addr, 0xF1, 0x00, lo8 (u16 z), hi8 (u16 z)] .accepted] }) := by
    rw [step_engine hs hc, engineMove_adjust _ hp, adjustOffset_inRange _ (nextOffset_eq hfaster hslower) hl hu,
      signedFrame_ok _ hv hl hu]
    exact hostSend_accepted _ _ _ hq
  refine ⟨_, hstep, ?_, ?_, fun hnext => ?_, fun hlast => ?_⟩
  · obtain ⟨u, v, h⟩ := sessionOnly_closeIteration { c with zeroOffset := u16 z } _
    rw [h]
  · obtain ⟨u, v, h⟩ := sessionOnly_closeIteration { c with zeroOffset := u16 z } _
    rw [h]
  · rw [closeIteration_next (c := { c with zeroOffset := u16 z }) _ hnext]
    exact ⟨rfl, rfl⟩
  · rw [closeIteration_last (c := { c with zeroOffset := u16 z }) _ hlast]
    exact ⟨rfl, rfl⟩

/-- Settles O56: the offset leaves S16 at either end. -/
theorem offsetLeavingTheRangeIsRefused : Obligations.OffsetLeavingTheRangeIsRefused := by
  intro s rest c diff z hs hc hp hfaster hslower hz
  rw [step_engine hs hc, engineMove_adjust _ hp]
  exact adjustOffset_outOfRange _ (nextOffset_eq hfaster hslower) hz

/-- Settles O57: the send fails before the iteration is closed. -/
theorem failedOffsetSendIsFollowedByAStop : Obligations.FailedOffsetSendIsFollowedByAStop := by
  intro s rest c diff z a q hs hc hp hv hq hfaster hslower hl hu
  rw [step_engine hs hc, engineMove_adjust _ hp, adjustOffset_inRange _ (nextOffset_eq hfaster hslower) hl hu,
    signedFrame_ok _ hv hl hu]
  exact hostSend_failed _ _ _ hv hq

/-! ### The sampling window (R140, R148) -/

/-- Replies that are neither a result nor TransportError are passed over (log entry 34). -/
theorem windowOutcome_append {others : List Reply}
    (h : ∀ x ∈ others, x ≠ .err .transportError ∧ ∀ r, x ≠ .sampled r) (rs : List Reply) :
    windowOutcome (others ++ rs) = windowOutcome rs := by
  induction others with
  | nil => rfl
  | cons x xs ih =>
    obtain ⟨⟨hlost, hmean⟩, hxs⟩ := List.forall_mem_cons.mp h
    rw [← ih hxs, List.cons_append, windowOutcome] <;> assumption

theorem awaitWindow_mean {mark : Nat} {q : Rat} {s : State} (c : Session) (p : Rat → Phase)
    (h : windowOutcome (s.replies.drop mark) = some (.mean q)) : awaitWindow mark c p s = continueWith c (p q) s := by
  simp only [awaitWindow, h]

theorem awaitWindow_lost {mark : Nat} {s : State} (c : Session) (p : Rat → Phase)
    (h : windowOutcome (s.replies.drop mark) = some .lost) :
    awaitWindow mark c p s = abandon .transportFailure c s := by
  simp only [awaitWindow, h]

/-- Settles O58: the outcome is the first after the other replies, and it is a mean or the loss of the window. -/
theorem windowOutcomeDecidesTheSession : Obligations.WindowOutcomeDecidesTheSession := by
  intro s rest c mark fwd others after hs hc hothers
  rw [step_engine hs hc]
  constructor
  · intro r hr
    have hmean : windowOutcome (s.replies.drop mark) = some (.mean r.mean) := by
      rw [hr, windowOutcome_append hothers]
      rfl
    constructor <;> intro hp <;> simp only [engineMove, hp]
    · exact congrArg _ (awaitWindow_mean c .stopB hmean)
    · exact congrArg _ (awaitWindow_mean c (.stopC fwd) hmean)
  · intro a q hr hp hv hq
    have hlost : windowOutcome (s.replies.drop mark) = some .lost := by
      rw [hr, windowOutcome_append hothers]
      rfl
    obtain ⟨p, hmove⟩ := engineMove_await { s with agenda := rest } hp
    rw [hmove, awaitWindow_lost (s := { s with agenda := rest }) c p hlost]
    exact congrArg _ (abandon_loaded .transportFailure c hv hq)

theorem askWindow_error {c : Session} {s : State} {e : ErrCode} (p : Nat → Phase)
    (h : entryCheck s.regs c.params.winDur c.params.winFreq = .error e) :
    askWindow c p s = abandon (.operationFailure e) c (raise .sampler e s) := by
  simp only [askWindow, h]

/-- In S_IDLE an error of SAMPLE's entry writes LASTERR alone (R166). -/
theorem raise_sampler_idle {s : State} {e : ErrCode} (hs : s.regs.sst = .idle) (he : e ≠ .busy) :
    raise .sampler e s = { s with regs := { s.regs with lastErr := e }, replies := s.replies ++ [.err e] } := by
  rw [raise_eq, if_neg he, endRegs_sampler, ← hs]

/-- Settles O59: SAMPLE's entry refuses the window, and the stop follows the refusal. -/
theorem emptyWindowIsFollowedByAStop : Obligations.EmptyWindowIsFollowedByAStop := by
  intro s rest c fwd a q hs hc hp hidle hv hempty hq
  obtain ⟨p, hmove⟩ := engineMove_measure { s with agenda := rest } hp
  rw [step_engine hs hc, hmove,
    askWindow_error (s := { s with agenda := rest }) p (entryCheck_empty hidle hv hempty),
    raise_sampler_idle (s := { s with agenda := rest }) hidle (by decide)]
  exact congrArg _ (abandon_loaded (.operationFailure .emptySample) c hv hq)

end Sys2Proof.Machine
end

section
/-!
PROOFS. What a step makes of the calibration session (44_host_calibration_engine.md): no agent but the engine acts on an
open session, and the engine follows the order of its states (R136) within its budget of iterations (R146).
-/

namespace Sys2Proof.Machine

/-! ### What leaves the session alone (R2) -/

@[simp] theorem raise_session (k : OpClass) (e : ErrCode) (s : State) : (raise k e s).session = s.session := by
  rw [raise_eq]

theorem txWrite_session {who : Agent} {b : Bytes} {s s' : State} {a : TxAnswer} (h : txWrite who b s = (a, s')) :
    s'.session = s.session := by
  rw [(txWrite_spec h).1]

theorem rxRead_session {who : Agent} {s s' : State} {a : RxAnswer} (h : rxRead who s = (a, s')) :
    s'.session = s.session := by
  rw [(rxRead_spec h).1]

@[simp] theorem hostDrain_session (s : State) : (hostDrain s).session = s.session := by
  rcases hx : rxRead .host s with ⟨a, s'⟩
  simp only [hostDrain, hx, deliver_session, rxRead_session hx]

@[simp] theorem startSample_session (d f : Time) (s : State) : (startSample d f s).session = s.session := by
  obtain ⟨n, -, h⟩ | ⟨e, -, h⟩ := startSample_cases d f s <;> simp [h]

@[simp] theorem loadAddress_session (a : Int) (s : State) : (loadAddress a s).session = s.session := by
  obtain ⟨-, h⟩ | ⟨-, -, h⟩ | ⟨-, -, h⟩ := loadAddress_cases a s <;> rw [h]
  · exact deliver_session _ s
  · exact raise_session _ _ s
  · rfl

theorem exec_session {i : Instr} {s t : State} (h : exec i s = .next t) : t.session = s.session := by
  obtain ⟨-, v, rfl⟩ | ⟨a, -, rfl⟩ | ⟨d, f, -, rfl⟩ := exec_cases h
  · exact deliver_session v s
  · exact loadAddress_session a s
  · exact startSample_session d f s

theorem runRequest_session {r : Request} {s t : State} (h : runRequest r s = .next t) : t.session = s.session := by
  cases hd : decode r with
  | ok i => exact exec_session ((runRequest_ok hd s).symm.trans h)
  | error e =>
    rw [runRequest_error hd] at h
    cases h
    exact raise_session _ _ _

@[simp] theorem blockMove_session (s : State) : (blockMove s).session = s.session := by
  unfold blockMove
  split
  case h_1 => rfl
  case h_2 => obtain ⟨a, draws, -, ⟨-, h⟩ | ⟨-, h⟩⟩ := writeRequest_eq s <;> rw [h]
  case h_3 => obtain ⟨a, draws, -, ⟨b, -, h⟩ | ⟨-, h⟩⟩ := readResponse_eq s <;> rw [h]
  case h_4 => rfl
  case h_5 =>
    obtain ⟨-, h⟩ | ⟨-, -, h⟩ := paceSlot_cases s <;> rw [h]
    obtain ⟨-, h⟩ | ⟨-, h⟩ := advanceSlot_cases s <;> rw [h]
    rfl

/-! ### What a step makes of the session (R135, R147) -/

/-- A step leaves the session, is the engine's act on it, or opens one. -/
inductive SessionStep (s t : State) : Prop where
  | kept (h : t.session = s.session)
  | acted (c : Session) (hc : s.session = some c) (h : engineMove c (afterTurn s) = .next t)
  | opened (p : HostParams) (z : Half) (h : openSession p z (afterTurn s) = .next t)

theorem engineTurn_sessionStep {s t : State} (h : engineTurn (afterTurn s) = .next t) : SessionStep s t := by
  cases hc : s.session with
  | none =>
    rw [engineTurn_idle (s := afterTurn s) hc] at h
    cases h
    exact .kept rfl
  | some c =>
    simp only [engineTurn, afterTurn_session, hc] at h
    exact .acted c hc h

theorem takeTurn_sessionStep {s t : State} {x : Turn} (h : takeTurn x (afterTurn s) = .next t) : SessionStep s t := by
  cases x with
  | ask r => exact .kept (runRequest_session (s := afterTurn s) h)
  | send b => cases h; exact .kept (txWrite_session (s := afterTurn s) rfl)
  | drain => cases h; exact .kept (hostDrain_session _)
  | block => cases h; exact .kept (blockMove_session _)
  | clock | reset | readReg => cases h; exact .kept rfl
  | openSession p z => exact .opened p z h
  | engine => exact engineTurn_sessionStep h

theorem step_sessionStep {s t : State} (h : step s = .next t) : SessionStep s t := by
  cases hs : s.agenda with
  | cons x rest =>
    rw [step_cons hs, afterTurn_cons hs] at h
    exact takeTurn_sessionStep h
  | nil =>
    rw [step_nil hs, restTurn] at h
    split at h
    · cases h
      exact .kept (clockMove_session s)
    · split at h
      · cases h
        exact .kept (blockMove_session s)
      · rw [← afterTurn_nil hs] at h
        exact engineTurn_sessionStep h

/-- Opening a session needs that none is open; a budget of 0 returns it at once (R135, R147). -/
theorem openSession_cases {p : HostParams} {z : Half} {s t : State} (h : openSession p z s = .next t) :
    s.session = none ∧ (t.session = none ∨ p.maxIter ≠ 0 ∧ t.session = some (newSession p z)) := by
  unfold openSession at h
  split at h
  · cases h
  · refine ⟨‹_›, ?_⟩
    split at h <;> cases h
    · exact .inl rfl
    · exact .inr ⟨‹_›, rfl⟩

/-! ### What an act makes of the session (R136, R146) -/

/-- A phase in the engine state of `p`, or in the next one of R136's order. -/
def PhaseFollows (p p' : Phase) : Prop :=
  engineState p' = engineState p ∨
    (engineState p, engineState p') ∈
      [(.idle, .forwardTest), (.forwardTest, .reverseTest), (.reverseTest, .evaluate), (.evaluate, .adjustOffset),
        (.adjustOffset, .idle)]

/-- What the engine's act leaves of the session `c`: it goes on within its iteration, begins the next one after the
adjustment, or is returned. -/
inductive SessionAct (c : Session) (t : State) : Prop where
  | goesOn (c' : Session) (h : t.session = some c') (hparams : c'.params = c.params)
      (hiteration : c'.iteration = c.iteration) (hphase : PhaseFollows c.phase c'.phase)
  | nextIteration (c' : Session) (h : t.session = some c') (hparams : c'.params = c.params)
      (hbudget : c.iteration < c.params.maxIter) (hiteration : c'.iteration = c.iteration + 1)
      (hphase : PhaseFollows c.phase c'.phase)
  | returns (e : Ending) (c' : Session) (h : t.session = none) (hended : t.ended = some (e, c'))
      (hconverged : e = .converged → engineState c.phase = .evaluate)
      (hexceeded : e = .maxIterationsExceeded → engineState c.phase = .adjustOffset)

namespace SessionAct

variable {c : Session} {s t : State}

theorem of_continue {p : Phase} (s : State) (hp : PhaseFollows c.phase p) : SessionAct c (continueWith c p s) :=
  .goesOn _ rfl rfl rfl hp

/-- A failure is neither of the two endings that R136 puts after a state. -/
theorem of_abandon (c' : Session) (s : State) {e : Ending} (hc : e ≠ .converged) (hm : e ≠ .maxIterationsExceeded) :
    SessionAct c (abandon e c' s) := by
  obtain ⟨hsession, hended, -⟩ := abandon_cases e c' s
  exact .returns e c' hsession hended (absurd · hc) (absurd · hm)

/-- A send leads to what follows an accepted one, or fails the session (R137, R149, R152). -/
theorem of_hostSend {f : Except ErrCode Bytes} {c' : Session} {andThen : State → State}
    (hk : ∀ x, SessionAct c (andThen x)) (h : hostSend f c' andThen s = .next t) : SessionAct c t := by
  obtain ⟨b, s', -, -, rfl⟩ | ⟨b, s', -, -, rfl⟩ | ⟨e, -, rfl⟩ := hostSend_cases h
  · exact hk s'
  · exact of_abandon c' s' nofun nofun
  · exact of_abandon c' s nofun nofun

theorem of_settle {f : Except ErrCode Bytes} {p : Time → Phase} (hp : ∀ ending, PhaseFollows c.phase (p ending))
    (h : hostSend f c (settle c p) s = .next t) : SessionAct c t :=
  of_hostSend (fun x => of_continue x (hp _)) h

theorem of_held (hc : s.session = some c) : SessionAct c s := .goesOn c hc rfl rfl (.inl rfl)

theorem of_settled {p : Phase} (ending : Time) (hc : s.session = some c) (hp : PhaseFollows c.phase p) :
    SessionAct c (settled ending c p s) := by
  obtain ⟨-, h⟩ | ⟨-, h⟩ := settled_cases ending c p s <;> rw [h]
  · exact of_held hc
  · exact of_continue s hp

theorem of_askWindow {p : Nat → Phase} (s : State) (hp : ∀ mark, PhaseFollows c.phase (p mark)) :
    SessionAct c (askWindow c p s) := by
  obtain h | ⟨e, -, h⟩ := askWindow_cases c p s <;> rw [h]
  · exact of_continue _ (hp _)
  · exact of_abandon c _ nofun nofun

theorem of_awaitWindow {p : Rat → Phase} (mark : Nat) (hc : s.session = some c)
    (hp : ∀ mean, PhaseFollows c.phase (p mean)) : SessionAct c (awaitWindow mark c p s) := by
  obtain h | ⟨mean, h⟩ | h := awaitWindow_cases mark c p s <;> rw [h]
  · exact of_held hc
  · exact of_continue s (hp mean)
  · exact of_abandon c s nofun nofun

theorem of_evaluateTest {fwd rev : Rat} (s : State) (hp : c.phase = .evaluate fwd rev) :
    SessionAct c (evaluateTest c fwd rev s) := by
  obtain ⟨c', h⟩ | h := evaluateTest_cases c fwd rev s <;> rw [h]
  · exact .returns .converged c' rfl rfl (fun _ => congrArg engineState hp) nofun
  · exact .goesOn _ rfl rfl rfl (by simp [PhaseFollows, engineState, hp])

/-- The end of the adjustment is in the budget's hands (R146). -/
theorem of_closeIteration {diff : Rat} (z : Half) (s : State) (hp : c.phase = .adjust diff) :
    SessionAct c (closeIteration { c with zeroOffset := z } s) := by
  by_cases hbudget : c.iteration < c.params.maxIter
  · rw [closeIteration_next (c := { c with zeroOffset := z }) s hbudget]
    exact .nextIteration _ rfl rfl hbudget rfl (by simp [PhaseFollows, engineState, hp])
  · rw [closeIteration_last (c := { c with zeroOffset := z }) s (not_lt.mp hbudget)]
    exact .returns .maxIterationsExceeded _ rfl rfl nofun (fun _ => congrArg engineState hp)

theorem of_adjustOffset {diff : Rat} (hp : c.phase = .adjust diff) (h : adjustOffset c diff s = .next t) :
    SessionAct c t := by
  obtain ⟨c', rfl, h⟩ := adjustOffset_cases h
  exact of_hostSend (fun x => of_closeIteration _ x hp) h

end SessionAct

/-- Every act of the engine, phase by phase (R136, R147). -/
theorem engineMove_sessionAct {c : Session} {s t : State} (hc : s.session = some c) (h : engineMove c s = .next t) :
    SessionAct c t := by
  cases hp : c.phase <;> simp only [engineMove, hp] at h
  case start => cases h; exact .of_continue s (by simp [PhaseFollows, engineState, hp])
  case stopA | spinFwd | stopB | spinRev | stopC =>
    exact .of_settle (fun _ => by simp [PhaseFollows, engineState, hp]) h
  case settleA | settleFwd | settleB | settleRev | settleC =>
    cases h
    exact .of_settled _ hc (by simp [PhaseFollows, engineState, hp])
  case measureFwd | measureRev =>
    cases h
    exact .of_askWindow s fun _ => by simp [PhaseFollows, engineState, hp]
  case awaitFwd | awaitRev =>
    cases h
    exact .of_awaitWindow _ hc fun _ => by simp [PhaseFollows, engineState, hp]
  case evaluate => cases h; exact .of_evaluateTest s hp
  case adjust => exact .of_adjustOffset hp h

/-- Settles O60: on an open session only the engine acts, and each of its acts follows the order. -/
theorem engineStatesFollowTheirOrder : Obligations.EngineStatesFollowTheirOrder := by
  intro s t c hc hstep
  cases step_sessionStep hstep with
  | kept h =>
    have ht : t.session = some c := h.trans hc
    refine ⟨fun c' h' => .inl ?_, fun h' => ?_⟩
    · rw [Option.some.inj (ht.symm.trans h')]
    · cases ht.symm.trans h'
  | opened p z h => cases hc.symm.trans (openSession_cases h).1
  | acted c₀ hc₀ h =>
    cases hc.symm.trans hc₀
    cases engineMove_sessionAct (s := afterTurn s) hc h with
    | goesOn c' ht _ _ hphase | nextIteration c' ht _ _ _ hphase =>
      refine ⟨fun c'' h' => ?_, fun h' => ?_⟩
      · cases ht.symm.trans h'
        exact hphase
      · cases ht.symm.trans h'
    | returns e c' ht hended hconverged hexceeded =>
      refine ⟨fun c'' h' => ?_, fun _ => ⟨e, c', hended, hconverged, hexceeded⟩⟩
      cases ht.symm.trans h'

/-- Settles O53: an iteration is begun only while the budget is not spent. -/
theorem iterationsStayWithinTheBudget : Obligations.IterationsStayWithinTheBudget := by
  intro s t hbefore hstep c ht
  cases step_sessionStep hstep with
  | kept h => exact hbefore c (h.symm.trans ht)
  | opened p z h =>
    obtain ⟨-, h | ⟨hbudget, h⟩⟩ := openSession_cases h <;> cases h.symm.trans ht
    exact ⟨le_refl 1, Nat.one_le_iff_ne_zero.mpr hbudget⟩
  | acted c₀ hc₀ h =>
    have hc := hbefore c₀ hc₀
    cases engineMove_sessionAct (s := afterTurn s) hc₀ h with
    | goesOn c' h hparams hiteration _ =>
      cases h.symm.trans ht
      rwa [hparams, hiteration]
    | nextIteration c' h hparams hbudget hiteration _ =>
      cases h.symm.trans ht
      rw [hparams, hiteration]
      exact ⟨Nat.le_add_left 1 _, hbudget⟩
    | returns e c' h => cases h.symm.trans ht

end Sys2Proof.Machine
end

section
/-!
PROOFS. What an operation that answers an error leaves behind (60_exceptions.md): nothing but the answer and, for LDADDR
and SAMPLE, the code in LASTERR (R163, R166, R168).
-/

namespace Sys2Proof.Machine

/-- SAMPLE's error in S_IDLE writes what LDADDR's does: SST is in S_IDLE already (R166). -/
theorem raise_sampler_eq_raise_load {s : State} {e : ErrCode} (h : e = .busy ∨ s.regs.sst = .idle) :
    raise .sampler e s = raise .load e s := by
  obtain rfl | hs := h
  · rfl
  · rw [raise_eq, raise_eq, endRegs_sampler, endRegs_load, ← hs]

/-- LDADDR answers an error by raising it; a loaded address is answered with `done` (R75). -/
theorem loadAddress_of_err {a : Int} {s : State} {e : ErrCode}
    (hr : (loadAddress a s).replies = s.replies ++ [.err e]) : loadAddress a s = raise .load e s := by
  obtain ⟨-, h⟩ | ⟨-, -, h⟩ | ⟨-, -, h⟩ := loadAddress_cases a s <;> rw [h] at hr ⊢
  · cases List.append_cancel_left hr
    rfl
  · cases List.append_cancel_left hr
    rfl
  · cases List.append_cancel_left hr

/-- SAMPLE answers an error by raising it; a started run has answered nothing yet (R110, R116). -/
theorem startSample_of_err {d f : Time} {s : State} {e : ErrCode}
    (hr : (startSample d f s).replies = s.replies ++ [.err e]) : startSample d f s = raise .load e s := by
  obtain ⟨n, -, h⟩ | ⟨e', he, h⟩ := startSample_cases d f s <;> rw [h] at hr ⊢
  · simp at hr
  · rw [raise_eq] at hr
    cases List.append_cancel_left hr
    exact raise_sampler_eq_raise_load ((entryCheck_error he).imp And.right And.left)

/-- Settles O25: a pure operation only hands its error over, and LDADDR and SAMPLE raise theirs. -/
theorem refusedOperationsArePrecise : Obligations.RefusedOperationsArePrecise := by
  intro i s t e h hr
  obtain ⟨hi, v, rfl⟩ | ⟨a, rfl, rfl⟩ | ⟨d, f, rfl, rfl⟩ := exec_cases h
  · cases List.append_cancel_left hr
    rw [if_pos (.inl hi)]
    rfl
  · rw [loadAddress_of_err hr, raise_eq]
    simp [isPure]
  · rw [startSample_of_err hr, raise_eq]
    simp [isPure]

end Sys2Proof.Machine
end

section
/-!
PROOFS. Reset (70_reset_and_hazards.md): that its state meets the invariants and refuses every operation that would put
ADDR in a frame (R184 to R187), and the reset event as a step (R183, R189).
-/

namespace Sys2Proof.Machine

/-- Settles O42: the registers are sound after any reset, and without a run no request is due. -/
theorem resetIsSoundAndOnSchedule : Obligations.ResetIsSoundAndOnSchedule :=
  ⟨Regs.reset_sound 0, onSchedule_of_idle rfl⟩

/-! ### Operations without an address (R79, R187) -/

section noAddress

variable {s : State} (hv : s.regs.addrV = false)
include hv

theorem builtFrame_noAddress (i : Instr) : builtFrame i s = .error .validationError := by
  cases i with
  | rdtlm | czero | setzero | setspd | stop | clrflt | save | setid | setnlim | setplim | setpos | rezero | prepz =>
    exact needAddr_invalid hv _
  | dectlm | ldaddr | enc | dechdr | sample => rfl

/-- An operation that only hands over the frame it builds has no frame to hand over. -/
theorem exec_noAddress_of_builtFrame {i : Instr} {g : Bytes → Reply}
    (hexec : exec i s = .next (answerPure ((builtFrame i s).map g) s)) :
    exec i s = .next (deliver (.err .validationError) s) := by
  rw [hexec, answerPure_eq, builtFrame_noAddress hv]
  rfl

theorem exec_builder_noAddress {i : Instr} (hi : isBuilder i = true) :
    exec i s = .next (deliver (.err .validationError) s) := by
  cases i with
  | dectlm | ldaddr | enc | dechdr | sample => cases hi
  | rdtlm | czero | setzero | setspd | stop | clrflt | save | setid | setnlim | setplim | setpos | rezero | prepz =>
    exact exec_noAddress_of_builtFrame hv rfl

theorem exec_enc_noAddress (op p : Int) : exec (.enc op p) s = .next (deliver (.err .validationError) s) := by
  rw [exec_enc, encodeFrame, needAddr_invalid hv]
  rfl

/-- The operations that would put ADDR in a frame answer with one error; SAMPLE does so in S_IDLE (R110). -/
theorem exec_noAddress_replies (hs : s.regs.sst = .idle) {i : Instr}
    (hi : isBuilder i = true ∨ (∃ op p, i = .enc op p) ∨ ∃ d f, i = .sample d f) :
    ∃ t, exec i s = .next t ∧ t.replies = s.replies ++ [.err .validationError] := by
  obtain hi | ⟨op, p, rfl⟩ | ⟨d, f, rfl⟩ := hi
  · exact ⟨_, exec_builder_noAddress hv hi, rfl⟩
  · exact ⟨_, exec_enc_noAddress hv op p, rfl⟩
  · exact ⟨_, exec_sample_refused hs (by decide) (entryCheck_noAddress hs hv d f), rfl⟩

end noAddress

/-- Settles O43: ADDR_V is clear after reset, and no operation makes a transport access of its own. -/
theorem resetValues : Obligations.ResetValues := by
  refine ⟨rfl, rfl, rfl, rfl, rfl, rfl, rfl, rfl, fun i hi => ?_⟩
  obtain ⟨t, ht, hreplies⟩ := exec_noAddress_replies (s := State.reset) rfl rfl hi
  exact ⟨t, ht, hreplies, exec_trace ht⟩

/-! ### The reset event (R183, R189) -/

theorem step_reset {s : State} {rest : List Turn} (hs : s.agenda = .reset :: rest) :
    step s = .next (resetBlock { s with agenda := rest }) := step_cons hs

/-- Settles O44: T0 and IVL take the next two free times (R185). -/
theorem resetEventEndsEverythingAtOnce : Obligations.ResetEventEndsEverythingAtOnce := fun s _ hs =>
  ⟨Config.freeTime s.draws, Config.freeTime (s.draws + 1), s.draws + 2, step_reset hs⟩

end Sys2Proof.Machine
end
